-- ==== Sys2Proof/Word.lean ====
section
/-! DEFINITION. The word types of the block: every value is unsigned (`00_scope.md` R10). -/

namespace Sys2Proof

/-- One byte of the stream and of ring storage (`20_memory.md` R50). -/
abbrev Byte := BitVec 8

/-- A 16-bit field: `message_id`, `total_length`, an operand of a command, the CRC register. -/
abbrev Half := BitVec 16

/-- A 32-bit field: the preamble, the checksum field, `val` of a response. -/
abbrev Word := BitVec 32

/-- The 40-bit command word `op[39:32] a[31:16] b[15:0]` (`30_encoding.md` R93). -/
abbrev CmdWord := BitVec 40

end Sys2Proof
end

