-- ==== Sys2Proof/Config.lean ====
section
/-! DEFINITION. What an implementation fixes (`00_scope.md` R7, R8) and the free values. -/

namespace Sys2Proof

/-- The parameters of one instance of the block (`00_scope.md` R7, `10_state.md` R28): named by the
spec, given no value by it, fixed at construction and never written (log entry 1). -/
structure Config where
  /-- `C`, the ring buffer capacity in bytes. -/
  capacity : Nat
  /-- `PREAMBLE`, the 32-bit frame-start sentinel. -/
  preamble : Word
  /-- `PAYLOAD_SIZE[0]`, the byte size of the AeroData record. -/
  aeroSize : Nat
  /-- `PAYLOAD_SIZE[1]`, the byte size of the ControlParams record. -/
  controlSize : Nat
deriving DecidableEq, Repr

/-- The constraints every binding of the parameters must meet (`00_scope.md` R8), with the instance's
own `C` as the capacity of R8 item 3, as that item says for a model of one instance. -/
abbrev Config.wf (c : Config) : Prop :=
  13 ≤ c.capacity ∧ c.capacity ≤ 65536 ∧
  12 + c.aeroSize ≤ 65535 ∧ 12 + c.aeroSize < c.capacity ∧
  12 + c.controlSize ≤ 65535 ∧ 12 + c.controlSize < c.capacity

/-- The configuration of `State.reset`: the numbers of the test configuration TV of
`95_test_vectors.md`, which "carry no authority" (`93_implementation_defined.md` part 2).
DESIGN CHOICE, unsafe (log entry 2): no statement rests on these numbers. -/
def Config.tv : Config :=
  { capacity := 40, preamble := 0xDEADBEEF#32, aeroSize := 6, controlSize := 3 }

/-- The frame latch, working storage of one TRY_READ (`10_state.md` R26). -/
structure Latch where
  /-- `avail`: the count taken at the top of a loop iteration. -/
  avail : Nat
  /-- `h_id`: the deserialised message_id. -/
  hId : Half
  /-- `h_len`: the deserialised total_length. -/
  hLen : Half
  /-- `body`: the bytes copied out of the ring buffer. -/
  body : List Byte
  /-- `rxck`: the received checksum field. -/
  rxck : Word
  /-- `ck`: the recomputed checksum. -/
  ck : Word
  /-- `reg`: the checksum register. -/
  reg : Half
deriving DecidableEq, Repr, Inhabited

/-- FREE VALUE. What a byte of ring storage holds that nothing has written since construction
(`10_state.md` R20, `93_implementation_defined.md` U5): one value for each construction and each
index, stable until the byte is written, and unknown (log entry 3). -/
opaque Config.initialByte : Nat → Nat → Byte

/-- FREE VALUE. What the frame latch holds between operations (`10_state.md` R26,
`93_implementation_defined.md` U5): one value for each construction and each TRY_READ (log entry 5). -/
opaque Config.unspecifiedLatch : Nat → Nat → Latch

end Sys2Proof
end

