-- ==== Sys2Proof/Machine/Catalog.lean ====
section
/-! DEFINITION. The Message Catalog (`30_encoding.md` R88 to R91): a closed, constant table. -/

namespace Sys2Proof

/-- The two message types (`30_encoding.md` R88). -/
inductive MessageId where
  | aeroData
  | controlParams
deriving DecidableEq, Repr

/-- The two nodes of the system (`60_exceptions.md` R215). -/
inductive Node where
  | control
  | user
deriving DecidableEq, Repr

/-- `NUM_IDS` (`00_scope.md` R6). -/
abbrev numIds : Nat := 2

/-- The number of a message type on the wire (`30_encoding.md` R88). -/
def MessageId.number : MessageId → Half
  | .aeroData => 0#16
  | .controlParams => 1#16

/-- The message type a 16-bit identifier names; all 16 bits take part, and every value outside the
catalog is unknown (`30_encoding.md` R82). -/
def MessageId.ofNumber? (id : Half) : Option MessageId :=
  if id = 0#16 then some .aeroData else if id = 1#16 then some .controlParams else none

/-- `PAYLOAD_SIZE[id]` (`30_encoding.md` R88, `00_scope.md` R7). -/
def Config.payloadSize (c : Config) : MessageId → Nat
  | .aeroData => c.aeroSize
  | .controlParams => c.controlSize

/-- The node that produces a message type; the block does not enforce it (`30_encoding.md` R88). -/
def MessageId.producer : MessageId → Node
  | .aeroData => .control
  | .controlParams => .user

/-- The node that consumes a message type; the block does not enforce it (`30_encoding.md` R88). -/
def MessageId.consumer : MessageId → Node
  | .aeroData => .user
  | .controlParams => .control

/-- The names of a record's fields in the source's order; no type, width or offset is given, and the
block never looks inside a payload (`30_encoding.md` R89 to R91; log entry 18). -/
def MessageId.fieldNames : MessageId → List String
  | .aeroData =>
    ["temperature", "relative humidity", "instantaneous wind speed", "running-average wind speed",
     "rotor speed", "blade pitch percentage", "break status", "pitch mode"]
  | .controlParams =>
    ["max rotor speed limit", "max wind speed limit", "manual blade pitch percentage",
     "manual-break flag", "pitch mode"]

end Sys2Proof
end

