-- ==== Sys2Proof/Syntax.lean ====
section
/-! DEFINITION. The twelve operations of the block, one constructor per row of
`spec/opcode_table.json` (`30_encoding.md` R95). -/

namespace Sys2Proof

/-- An operation with its operands. A position, an identifier, a count and a length are the 16-bit
operand fields of the command word (`30_encoding.md` R93); `din` is the byte sequence supplied with the
command (R94), an operand like the others (`10_state.md` R31; log entry 21). -/
inductive Instr where
  /-- PUSH, `push(byte)`: `40_ring_buffer.md` R113. -/
  | push (v : Byte)
  /-- AVAIL, `available_from(pos)`: `40_ring_buffer.md` R111. -/
  | avail (pos : Half)
  /-- PEEK32, `peek_u32(pos)`: `40_ring_buffer.md` R114. -/
  | peek32 (pos : Half)
  /-- PEEKB, `peek_bytes(pos, n)`: `40_ring_buffer.md` R115. -/
  | peekb (pos n : Half)
  /-- ADVANCE, `advance_read(n)`: `40_ring_buffer.md` R117. -/
  | advance (n : Half)
  /-- CHECKSUM, `checksum(bytes)`: `41_checksum.md` R134. -/
  | checksum (len : Half) (din : List Byte)
  /-- ENCODE, `encode(payload, message_id)`: `42_frame_encoder.md` R142. -/
  | encode (id : Half) (din : List Byte)
  /-- SEND, `send(payload, MessageId)`: `42_frame_encoder.md` R143. -/
  | send (id : Half) (din : List Byte)
  /-- TRY_READ, `try_read()`: `43_frame_decoder.md` R150. -/
  | tryRead
  /-- RD_STATUS: `44_system_ops.md` R190. -/
  | rdStatus
  /-- CLR_STATUS: `44_system_ops.md` R191. -/
  | clrStatus (mask : BitVec 3)
  /-- RD_CURSORS: `44_system_ops.md` R192. -/
  | rdCursors
deriving DecidableEq, Repr

end Sys2Proof
end

