-- ==== Sys2Proof/WellFormed.lean ====
section
/-! DEFINITION. When the operands of an operation are in their legal ranges (`30_encoding.md` R98).
The widths of the fields are in the types of `Instr`; what is left are the ranges that depend on the
configuration and on `din`. An operation whose operands are not legal is answered with BAD_OPERAND. -/

namespace Sys2Proof

/-- The payload `din` is the record of the catalog entry `id` (`42_frame_encoder.md` R142). -/
def Config.payloadLegal (c : Config) (id : Half) (din : List Byte) : Bool :=
  match MessageId.ofNumber? id with
  | none => false
  | some m => din.length == c.payloadSize m

/-- The legal operand ranges of `30_encoding.md` R98, operation by operation. -/
def Instr.wellFormed (c : Config) : Instr → Bool
  | .push _ => true
  | .avail pos => decide (pos.toNat < c.capacity)
  | .peek32 pos => decide (pos.toNat < c.capacity)
  | .peekb pos n => decide (pos.toNat < c.capacity) && decide (n.toNat < c.capacity)
  | .advance _ => true
  | .checksum len din => len.toNat == din.length
  | .encode id din => c.payloadLegal id din
  | .send id din => c.payloadLegal id din
  | .tryRead => true
  | .rdStatus => true
  | .clrStatus _ => true
  | .rdCursors => true

end Sys2Proof
end

