-- ==== Sys2Proof/Decode.lean ====
section
/-! DEFINITION. The command word (`30_encoding.md` R93 to R98): decoding, total on every 40-bit word
and every `din`, rejecting reserved encodings by name; and after it the encoder. -/

namespace Sys2Proof

/-- Why a command is a reserved encoding (`30_encoding.md` R98). -/
inductive DecodeError where
  /-- `op` is not one of the twelve of R95. -/
  | reservedOp
  /-- A field or sub-field that R95 gives as 0 is not 0. -/
  | nonzeroField
  /-- `din` is not empty for an operation whose `din` R94 gives as empty. -/
  | unexpectedDin
deriving DecidableEq, Repr

/-- The twelve operation codes of `30_encoding.md` R95, by mnemonic. -/
inductive Op where
  | push | avail | peek32 | peekb | advance | checksum
  | encode | send | tryRead | rdStatus | clrStatus | rdCursors
deriving DecidableEq, Repr

/-- All twelve rows, in the order of R95. -/
def Op.all : List Op :=
  [.push, .avail, .peek32, .peekb, .advance, .checksum,
   .encode, .send, .tryRead, .rdStatus, .clrStatus, .rdCursors]

/-- The column `op` of R95. -/
def Op.code : Op → Byte
  | .push => 0x01#8
  | .avail => 0x02#8
  | .peek32 => 0x03#8
  | .peekb => 0x04#8
  | .advance => 0x05#8
  | .checksum => 0x10#8
  | .encode => 0x20#8
  | .send => 0x21#8
  | .tryRead => 0x30#8
  | .rdStatus => 0xF0#8
  | .clrStatus => 0xF1#8
  | .rdCursors => 0xF2#8

/-- The column `a` of R95: the bits of `a` that must be 0. -/
def Op.zeroA : Op → Half
  | .push => 0xFFFF#16
  | .avail => 0x0000#16
  | .peek32 => 0x0000#16
  | .peekb => 0x0000#16
  | .advance => 0xFFFF#16
  | .checksum => 0xFFFF#16
  | .encode => 0x0000#16
  | .send => 0x0000#16
  | .tryRead => 0xFFFF#16
  | .rdStatus => 0xFFFF#16
  | .clrStatus => 0xFFFF#16
  | .rdCursors => 0xFFFF#16

/-- The column `b` of R95: the bits of `b` that must be 0. -/
def Op.zeroB : Op → Half
  | .push => 0xFF00#16
  | .avail => 0xFFFF#16
  | .peek32 => 0xFFFF#16
  | .peekb => 0x0000#16
  | .advance => 0x0000#16
  | .checksum => 0x0000#16
  | .encode => 0xFFFF#16
  | .send => 0xFFFF#16
  | .tryRead => 0xFFFF#16
  | .rdStatus => 0xFFFF#16
  | .clrStatus => 0xFFF8#16
  | .rdCursors => 0xFFFF#16

/-- The column `din` of R95: whether the operation takes a byte sequence (`30_encoding.md` R94). -/
def Op.takesDin : Op → Bool
  | .checksum => true
  | .encode => true
  | .send => true
  | _ => false

/-- `match` of the operation's row in `spec/opcode_table.json`. -/
def Op.tableMatch : Op → CmdWord
  | .push => 0x0100000000#40
  | .avail => 0x0200000000#40
  | .peek32 => 0x0300000000#40
  | .peekb => 0x0400000000#40
  | .advance => 0x0500000000#40
  | .checksum => 0x1000000000#40
  | .encode => 0x2000000000#40
  | .send => 0x2100000000#40
  | .tryRead => 0x3000000000#40
  | .rdStatus => 0xF000000000#40
  | .clrStatus => 0xF100000000#40
  | .rdCursors => 0xF200000000#40

/-- `mask` of the operation's row in `spec/opcode_table.json`. -/
def Op.tableMask : Op → CmdWord
  | .push => 0xFFFFFFFF00#40
  | .avail => 0xFF0000FFFF#40
  | .peek32 => 0xFF0000FFFF#40
  | .peekb => 0xFF00000000#40
  | .advance => 0xFFFFFF0000#40
  | .checksum => 0xFFFFFF0000#40
  | .encode => 0xFF0000FFFF#40
  | .send => 0xFF0000FFFF#40
  | .tryRead => 0xFFFFFFFFFF#40
  | .rdStatus => 0xFFFFFFFFFF#40
  | .clrStatus => 0xFFFFFFFFF8#40
  | .rdCursors => 0xFFFFFFFFFF#40

/-- Bits 39:32 of the command word (R93). -/
def opField (w : CmdWord) : Byte := w.extractLsb' 32 8

/-- Bits 31:16 of the command word (R93). -/
def aField (w : CmdWord) : Half := w.extractLsb' 16 16

/-- Bits 15:0 of the command word (R93). -/
def bField (w : CmdWord) : Half := w.extractLsb' 0 16

/-- The operation an `op` value names; every value not in R95 is reserved. -/
def Op.ofCode? (code : Byte) : Option Op := Op.all.find? (fun o => o.code == code)

/-- The operation with its operands taken from `a`, `b` and `din` (R95). -/
def Op.build (o : Op) (a b : Half) (din : List Byte) : Instr :=
  match o with
  | .push => .push (b.extractLsb' 0 8)
  | .avail => .avail a
  | .peek32 => .peek32 a
  | .peekb => .peekb a b
  | .advance => .advance b
  | .checksum => .checksum b din
  | .encode => .encode a din
  | .send => .send a din
  | .tryRead => .tryRead
  | .rdStatus => .rdStatus
  | .clrStatus => .clrStatus (b.extractLsb' 0 3)
  | .rdCursors => .rdCursors

/-- Decoding a command: the reserved-encoding test of `30_encoding.md` R98, then the operation. -/
def decode (w : CmdWord) (din : List Byte) : Except DecodeError Instr :=
  match Op.ofCode? (opField w) with
  | none => .error .reservedOp
  | some o =>
    if aField w &&& o.zeroA ≠ 0#16 ∨ bField w &&& o.zeroB ≠ 0#16 then .error .nonzeroField
    else if o.takesDin = false ∧ din ≠ [] then .error .unexpectedDin
    else .ok (o.build (aField w) (bField w) din)

/-! ## The encoder -/

/-- The row of R95 an instruction belongs to. -/
def Instr.op : Instr → Op
  | .push _ => .push
  | .avail _ => .avail
  | .peek32 _ => .peek32
  | .peekb _ _ => .peekb
  | .advance _ => .advance
  | .checksum _ _ => .checksum
  | .encode _ _ => .encode
  | .send _ _ => .send
  | .tryRead => .tryRead
  | .rdStatus => .rdStatus
  | .clrStatus _ => .clrStatus
  | .rdCursors => .rdCursors

/-- The operand field `a` of an instruction's word (R95). -/
def Instr.a : Instr → Half
  | .push _ => 0#16
  | .avail pos => pos
  | .peek32 pos => pos
  | .peekb pos _ => pos
  | .advance _ => 0#16
  | .checksum _ _ => 0#16
  | .encode id _ => id
  | .send id _ => id
  | .tryRead => 0#16
  | .rdStatus => 0#16
  | .clrStatus _ => 0#16
  | .rdCursors => 0#16

/-- The operand field `b` of an instruction's word (R95). -/
def Instr.b : Instr → Half
  | .push v => v.setWidth 16
  | .avail _ => 0#16
  | .peek32 _ => 0#16
  | .peekb _ n => n
  | .advance n => n
  | .checksum len _ => len
  | .encode _ _ => 0#16
  | .send _ _ => 0#16
  | .tryRead => 0#16
  | .rdStatus => 0#16
  | .clrStatus mask => mask.setWidth 16
  | .rdCursors => 0#16

/-- The byte sequence supplied with an instruction (R94). -/
def Instr.din : Instr → List Byte
  | .push _ => []
  | .avail _ => []
  | .peek32 _ => []
  | .peekb _ _ => []
  | .advance _ => []
  | .checksum _ din => din
  | .encode _ din => din
  | .send _ din => din
  | .tryRead => []
  | .rdStatus => []
  | .clrStatus _ => []
  | .rdCursors => []

/-- A command word from its three fields: `op[39:32] a[31:16] b[15:0]` (R93). -/
def commandWord (op : Byte) (a b : Half) : CmdWord := op ++ a ++ b

/-- The command, word and `din`, that names an instruction. -/
def encode (i : Instr) : CmdWord × List Byte := (commandWord i.op.code i.a i.b, i.din)

/-! ## The host's view of one word of the opcode table -/

/-- The `din` of zero bytes that goes with a bare command word: as many as the word asks for, with the
payload sizes of `Config.tv` for ENCODE and SEND, and none where none is taken (log entry 11). -/
def zeroDin (w : CmdWord) : List Byte :=
  match Op.ofCode? (opField w) with
  | some .checksum => List.replicate (bField w).toNat 0#8
  | some .encode | some .send =>
    match MessageId.ofNumber? (aField w) with
    | some m => List.replicate (Config.tv.payloadSize m) 0#8
    | none => []
  | _ => []

/-- The command word that the `nbits` low bits of `w` spell. -/
def tableWord (nbits w : Nat) : CmdWord := BitVec.ofNat 40 (w % 2 ^ nbits)

/-- The instruction the decoder reads from a word numbered as `spec/opcode_table.json` numbers it, its
`din` the zero bytes of `zeroDin`; none where the decoder refuses, or where the word has more than the
40 bits of a command. -/
def decodeTableWord (nbits w : Nat) : Option Instr :=
  if w % 2 ^ nbits < 2 ^ 40 then
    (decode (tableWord nbits w) (zeroDin (tableWord nbits w))).toOption
  else none

end Sys2Proof
end

