-- ==== Sys2Proof/Machine/State.lean ====
section
/-! DEFINITION. The state of the machine as plain data (`10_state.md`), and its value after
construction (`70_reset_and_hazards.md` R230 to R234). -/

namespace Sys2Proof.Machine

/-- The nine states of the Frame Decoder's state machine (`10_state.md` R25, `43_frame_decoder.md` R165). -/
inductive Fsm where
  | idle | drain | check | sync | hdr | len | body | consume | verdict
deriving DecidableEq, Repr

/-- The response codes of `30_encoding.md` R97. -/
inductive Code where
  | ok | noFrame | refusedFull | badCmd | badOperand
deriving DecidableEq, Repr

/-- The response record of `30_encoding.md` R96; `code` is named, and numbered by `Code.number`. -/
structure Response where
  code : Code
  id : Half
  val : Word
  data : List Byte
deriving DecidableEq, Repr

/-- What reaches the core from outside, one item a step (`00_scope.md` R13): a command of the host, or
an arrival of bytes at the transport (`20_memory.md` R65). -/
inductive Input where
  | command (word : CmdWord) (din : List Byte)
  | arrive (bytes : List Byte)
deriving DecidableEq, Repr

/-- Ring storage: the bytes written since construction, by index, indices strictly rising. An index
that is not listed holds no value known to the model (`10_state.md` R20). -/
abbrev Memory := List Host.Cell

/-- The state: the configuration (read-only), the block, the environment, and the two counters that
name free values. -/
structure State where
  /-- `C`, `PREAMBLE`, `PAYLOAD_SIZE[0..1]` (`10_state.md` R28): written by nothing. -/
  cfg : Config
  /-- `buf` (`10_state.md` R20). -/
  buf : Memory
  /-- `wcur`, the write cursor (`10_state.md` R21). -/
  wcur : Nat
  /-- `rcur`, the read cursor (`10_state.md` R22). -/
  rcur : Nat
  /-- `STATUS`: bit 0 `OVR`, bit 1 `REJ`, bit 2 `RSY` (`10_state.md` R27). -/
  status : BitVec 3
  /-- `fsm`, `IDLE` between operations (`10_state.md` R25). -/
  fsm : Fsm
  /-- The frame latch (`10_state.md` R26). -/
  latch : Latch
  /-- `rxq`, the transport receive queue, oldest byte first (`10_state.md` R30). -/
  rxq : List Byte
  /-- `txlog`, the byte sequences handed to the transport, oldest first (`10_state.md` R30). -/
  txlog : List (List Byte)
  /-- What the host and the transport will offer next, in order (log entry 8). -/
  inputs : List Input
  /-- The responses given to the host, one per command, oldest first (log entry 9). -/
  responses : List Response
  /-- The model's own: which construction this is, for `Config.initialByte` (log entry 6). -/
  powerUp : Nat
  /-- The model's own: how many latch values have been drawn, for `Config.unspecifiedLatch` (log entry 6). -/
  draws : Nat
deriving DecidableEq, Repr

/-- Why the machine stops with a fault. The spec has no fault (`60_exceptions.md` R206). -/
inductive Fault where
  /-- Raised by TRY_READ if its state machine had not come back to IDLE within the model's bound of
  `2 + 7 * C` transitions. `43_frame_decoder.md` R164 bounds the search by `C - 9` iterations, so it
  is not raised from any state with the invariant `State.Inv`. Safe (log entry 13). -/
  | searchBoundExceeded
deriving DecidableEq, Repr

/-- Why the machine gives a case no meaning. -/
inductive Refusal where
  /-- An operation without a meaning yet, by its mnemonic. No operation is left so. Safe. -/
  | notModelled (mnemonic : String)
  /-- Raised by the step, before anything else, for a configuration outside `00_scope.md` R8: "such a
  block is not constructed" (`93_implementation_defined.md` U17). Safe (log entry 12). -/
  | invalidConfiguration
deriving DecidableEq, Repr

/-- The block right after construction with a configuration (`70_reset_and_hazards.md` R230 to R234):
cursors 0, STATUS 0, `fsm` IDLE, no byte of `buf` written. The latch, unspecified there, is zero
(log entry 4); the environment is empty (log entry 7). -/
def State.construct (c : Config) (powerUp : Nat) : State :=
  { cfg := c, buf := [], wcur := 0, rcur := 0, status := 0#3, fsm := .idle,
    latch := { avail := 0, hId := 0#16, hLen := 0#16, body := [], rxck := 0#32, ck := 0#32, reg := 0#16 },
    rxq := [], txlog := [], inputs := [], responses := [], powerUp := powerUp, draws := 0 }

/-- The machine right after reset: construction with the configuration of log entry 2. -/
def State.reset : State := State.construct Config.tv 0

end Sys2Proof.Machine
end

