-- ==== Sys2Proof/Machine/Ops.lean ====
section
/-! DEFINITION. The named operations over ring storage, the cursors, the transport and the response
port (`20_memory.md`, `40_ring_buffer.md`), and `State.raise`, the one operation that takes an event
(`60_exceptions.md` R200). -/

namespace Sys2Proof.Machine

/-! ## Byte order (`20_memory.md` R52, `00_scope.md` R11) -/

/-- `le_N(v)`: the `n` low bytes of `v`, least significant first. -/
def leBytes {w : Nat} (n : Nat) (v : BitVec w) : List Byte :=
  (List.range n).map fun i => v.extractLsb' (8 * i) 8

/-- `u_le(s)`: the number whose little-endian bytes are `s`. -/
def uLe : List Byte → Nat
  | [] => 0
  | b :: s => b.toNat + 256 * uLe s

/-! ## Ring storage as data -/

/-- The canonical form of ring storage: indices strictly rising. -/
abbrev Memory.wf (m : Memory) : Prop := m.Pairwise fun x y => x.1 < y.1

/-- The byte written at an index, if one was written since construction. -/
def Memory.read? : Memory → Nat → Option Byte
  | [], _ => none
  | (k, v) :: m, a => if k = a then some v else Memory.read? m a

/-- `MemWrite(addr, 1, v)` on the list (`20_memory.md` R54). -/
def Memory.write : Memory → Nat → Byte → Memory
  | [], a, b => [(a, b)]
  | (k, v) :: m, a, b =>
    if a < k then (a, b) :: (k, v) :: m
    else if a = k then (a, b) :: m
    else (k, v) :: Memory.write m a b

/-! ## Reads of ring storage -/

/-- `buf[i]`: the byte last written at `i`, or the free value of a byte nothing has written
(`10_state.md` R20, R29; log entry 3). -/
def State.readByte (s : State) (i : Nat) : Byte :=
  (s.buf.read? i).getD (Config.initialByte s.powerUp i)

/-- `MemReadBytes(addr, n)`: `n` bytes in stream order, indices modulo `C` (`20_memory.md` R51, R53).
It is `peek_bytes` (`40_ring_buffer.md` R115). -/
def State.peekBytes (s : State) (pos n : Nat) : List Byte :=
  (List.range n).map fun k => s.readByte ((pos + k) % s.cfg.capacity)

/-- `MemRead(addr, n)` (`20_memory.md` R52). -/
def State.memRead (s : State) (addr n : Nat) : Nat := uLe (s.peekBytes addr n)

/-- `peek_u32(pos)` (`40_ring_buffer.md` R114). -/
def State.peekU32 (s : State) (pos : Nat) : Word := BitVec.ofNat 32 (s.memRead pos 4)

/-- `peek_u16(pos)`, with the reduction modulo `C` in it (`40_ring_buffer.md` R116). -/
def State.peekU16 (s : State) (pos : Nat) : Half :=
  BitVec.ofNat 16 (s.memRead (pos % s.cfg.capacity) 2)

/-! ## Cursors -/

/-- The bytes from position `pos` forward to a write cursor `w`, in WTC's two branches
(`40_ring_buffer.md` R111). -/
def ringCount (capacity w pos : Nat) : Nat := if pos ≤ w then w - pos else capacity + w - pos

/-- `available_from(pos)` (`40_ring_buffer.md` R111). -/
def State.availableFrom (s : State) (pos : Nat) : Nat := ringCount s.cfg.capacity s.wcur pos

/-- The number of unread bytes (`10_state.md` R24). -/
abbrev State.unread (s : State) : Nat := s.availableFrom s.rcur

/-- `full()`: the unread region holds `C - 1` bytes (`40_ring_buffer.md` R112). -/
abbrev State.full (s : State) : Prop := s.unread = s.cfg.capacity - 1

/-- `advance_read(n)`: `rcur <- (rcur + n) mod C` (`40_ring_buffer.md` R117). -/
def State.advanceRead (s : State) (n : Nat) : State :=
  { s with rcur := (s.rcur + n) % s.cfg.capacity }

/-- The unguarded part of `push(byte)`: `buf[wcur] <- v`, `wcur <- (wcur + 1) mod C`
(`40_ring_buffer.md` R113, `43_frame_decoder.md` R151). -/
def State.storeByte (s : State) (v : Byte) : State :=
  { s with buf := s.buf.write s.wcur v, wcur := (s.wcur + 1) % s.cfg.capacity }

/-! ## The transport (`20_memory.md` R60 to R65) -/

/-- `T.write(s)`: one more entry of `txlog` (R63). -/
def State.transportWrite (s : State) (f : List Byte) : State :=
  { s with txlog := s.txlog ++ [f] }

/-- The bytes that the transport still holds (R61, R62). -/
def State.setRxq (s : State) (q : List Byte) : State := { s with rxq := q }

/-- An arrival: the environment appends bytes to `rxq` (R65). -/
def State.arrive (s : State) (bytes : List Byte) : State := { s with rxq := s.rxq ++ bytes }

/-! ## Events (`60_exceptions.md` R200) -/

/-- The three events of the block. -/
inductive Event where
  | overrun | checksumMismatch | syncLoss
deriving DecidableEq, Repr

/-- The `STATUS` bit that is an event's code (`60_exceptions.md` R200, `10_state.md` R27). -/
def Event.bit : Event → BitVec 3
  | .overrun => 0b001#3
  | .checksumMismatch => 0b010#3
  | .syncLoss => 0b100#3

/-- TAKING AN EVENT, the block's only kind of exception: `raise X()` sets the `STATUS` bit of the event
and nothing else (`60_exceptions.md` R200, R209). It saves no position, changes no mode and transfers
control nowhere, so there is no return from it (R210): the operation goes on at its next line. -/
def State.raise (s : State) (e : Event) : State := { s with status := s.status ||| e.bit }

/-! ## The response port (`30_encoding.md` R96, R97) -/

/-- The number of a response code (R97). -/
def Code.number : Code → Byte
  | .ok => 0#8
  | .noFrame => 1#8
  | .refusedFull => 2#8
  | .badCmd => 3#8
  | .badOperand => 4#8

/-- A response that carries nothing but its code. -/
def Response.bare (c : Code) : Response := { code := c, id := 0#16, val := 0#32, data := [] }

/-- An `OK` response with a number. -/
def Response.value (v : Word) : Response := { code := .ok, id := 0#16, val := v, data := [] }

/-- An `OK` response with bytes. -/
def Response.bytes (d : List Byte) : Response := { code := .ok, id := 0#16, val := 0#32, data := d }

/-- `respond(...)`: the operation ends with this response (R96). -/
def State.respond (s : State) (r : Response) : State := { s with responses := s.responses ++ [r] }

/-! ## The state machine's own registers (`10_state.md` R25, R26) -/

/-- `fsm <- q`. -/
def State.setFsm (s : State) (q : Fsm) : State := { s with fsm := q }

/-- A write of the frame latch. -/
def State.setLatch (s : State) (l : Latch) : State := { s with latch := l }

/-- The limits the latch's widths set (`10_state.md` R26): `avail` is a count below `C`, `body` at most
`C - 13` bytes. -/
def latchWithin (c : Config) (l : Latch) : Latch :=
  { l with avail := l.avail % c.capacity, body := l.body.take (c.capacity - 13) }

/-- The end of a TRY_READ: what the latch holds from here on is unspecified (`10_state.md` R26), a free
value within its widths (log entry 5). -/
def State.releaseLatch (s : State) : State :=
  { s with latch := latchWithin s.cfg (Config.unspecifiedLatch s.powerUp s.draws), draws := s.draws + 1 }

end Sys2Proof.Machine
end

