-- ==== Sys2Proof/Machine/Operands.lean ====
section
/-! DEFINITION. The operand forms of the twelve operations and their range checks
(`30_encoding.md` R98, `40_ring_buffer.md` R110). Every operand is unsigned and used as it stands
(`30_encoding.md` R93). -/

namespace Sys2Proof.Machine

/-- A position operand `pos` is legal when it is below `C` (R110). -/
abbrev State.posLegal (s : State) (pos : Half) : Prop := pos.toNat < s.cfg.capacity

/-- A count operand `n` of PEEKB is legal when it is below `C` (`40_ring_buffer.md` R115). -/
abbrev State.countLegal (s : State) (n : Half) : Prop := n.toNat < s.cfg.capacity

/-- CHECKSUM's `len` is legal when it is the length of `din` (`41_checksum.md` R134). -/
abbrev lengthLegal (len : Half) (din : List Byte) : Prop := len.toNat = din.length

/-- The catalog entry of an ENCODE or SEND whose operands are legal: the identifier is in the catalog
and `din` has its payload size (`42_frame_encoder.md` R142). -/
def State.payload? (s : State) (id : Half) (din : List Byte) : Option MessageId :=
  match MessageId.ofNumber? id with
  | none => none
  | some m => if din.length = s.cfg.payloadSize m then some m else none

/-- The answer to a command whose operands are not legal: `BAD_OPERAND`, and no state changes
(`30_encoding.md` R98, `60_exceptions.md` R205; log entry 10). -/
def State.refuseOperand (s : State) : State := s.respond (Response.bare .badOperand)

/-- The answer to a reserved command encoding: `BAD_CMD`, and no state changes (`30_encoding.md` R98,
`60_exceptions.md` R205; log entry 10). -/
def State.refuseCommand (s : State) : State := s.respond (Response.bare .badCmd)

end Sys2Proof.Machine
end

