-- ==== Sys2Proof/Machine/Flags.lean ====
section
/-! DEFINITION. The three sticky flags of `STATUS` (`10_state.md` R27). No operation's result sets any
other flag, and no operation but RD_STATUS reads one. -/

namespace Sys2Proof.Machine

/-- `STATUS.OVR`, bit 0. -/
def State.ovr (s : State) : Bool := s.status.getLsbD 0

/-- `STATUS.REJ`, bit 1. -/
def State.rej (s : State) : Bool := s.status.getLsbD 1

/-- `STATUS.RSY`, bit 2. -/
def State.rsy (s : State) : Bool := s.status.getLsbD 2

/-- Clearing the flags a mask names and leaving the others (`44_system_ops.md` R191). -/
def State.clearFlags (s : State) (mask : BitVec 3) : State := { s with status := s.status &&& ~~~mask }

/-- `zext_32(STATUS)`: the flags as RD_STATUS returns them (`44_system_ops.md` R190). -/
def State.statusWord (s : State) : Word := s.status.setWidth 32

/-- `{zext_16(wcur), zext_16(rcur)}`: the cursors as RD_CURSORS returns them (`44_system_ops.md` R192). -/
def State.cursorWord (s : State) : Word := BitVec.ofNat 16 s.wcur ++ BitVec.ofNat 16 s.rcur

end Sys2Proof.Machine
end

