-- ==== Sys2Proof/Machine/Checksum.lean ====
section
/-! DEFINITION. The Checksum Engine (`41_checksum.md`): CRC-16, polynomial 0xA001, initial register
0xFFFF, right-shifting, no final XOR; used on encode and on decode alike. -/

namespace Sys2Proof.Machine

open Host (Outcome)

/-- `CRC_POLY` (`00_scope.md` R6). -/
def crcPoly : Half := 0xA001#16

/-- `CRC_INIT` (`00_scope.md` R6). -/
def crcInit : Half := 0xFFFF#16

/-- One single-bit shift of the register (`41_checksum.md` R131). -/
def crcShift (reg : Half) : Half :=
  if reg.getLsbD 0 then (reg >>> 1) ^^^ crcPoly else reg >>> 1

/-- `n` single-bit shifts. -/
def crcShifts : Nat → Half → Half
  | 0, reg => reg
  | n + 1, reg => crcShifts n (crcShift reg)

/-- `crc16_step(reg, v)`: the byte XORed into the low end, then eight shifts (`41_checksum.md` R131). -/
def crc16Step (reg : Half) (v : Byte) : Half := crcShifts 8 (reg ^^^ v.setWidth 16)

/-- `crc16(s)` (`41_checksum.md` R132). -/
def crc16 (s : List Byte) : Half := s.foldl crc16Step crcInit

/-- `checksum(s) = zext_32(crc16(s))` (`41_checksum.md` R133). -/
def checksum (s : List Byte) : Word := (crc16 s).setWidth 32

/-- CHECKSUM (`41_checksum.md` R134). -/
def execChecksum (len : Half) (din : List Byte) (s : State) : Outcome State Fault Refusal :=
  if lengthLegal len din then .next (s.respond (Response.value (checksum din)))
  else .next s.refuseOperand

end Sys2Proof.Machine
end

