-- ==== Sys2Proof/Machine/FrameEncoder.lean ====
section
/-! DEFINITION. The Frame Encoder: ENCODE and SEND (`42_frame_encoder.md`), and the wire frame of
`30_encoding.md` R80 to R86. -/

namespace Sys2Proof.Machine

open Host (Outcome)

/-- `HEADER_SIZE` (`00_scope.md` R6). -/
abbrev headerSize : Nat := 8

/-- `CHECKSUM_SIZE` (`00_scope.md` R6). -/
abbrev checksumSize : Nat := 4

/-- `MIN_FRAME = HEADER_SIZE + CHECKSUM_SIZE` (`00_scope.md` R6). -/
abbrev minFrame : Nat := 12

/-- `frame(id, payload)`: preamble, message_id, total_length, body, checksum, all little-endian
(`42_frame_encoder.md` R141). -/
def frame (c : Config) (id : Half) (payload : List Byte) : List Byte :=
  leBytes 4 c.preamble ++ leBytes 2 id
    ++ leBytes 2 (BitVec.ofNat 16 (headerSize + payload.length + checksumSize))
    ++ payload ++ leBytes 4 (checksum payload)

/-- The response of ENCODE and SEND: the frame and its `total_length` (`30_encoding.md` R96). -/
def frameResponse (c : Config) (m : MessageId) (f : List Byte) : Response :=
  { code := .ok, id := 0#16, val := BitVec.ofNat 32 (minFrame + c.payloadSize m), data := f }

/-- ENCODE (`42_frame_encoder.md` R142). -/
def execEncode (id : Half) (din : List Byte) (s : State) : Outcome State Fault Refusal :=
  match s.payload? id din with
  | none => .next s.refuseOperand
  | some m => .next (s.respond (frameResponse s.cfg m (frame s.cfg id din)))

/-- SEND (`42_frame_encoder.md` R143): the same frame, and exactly one `T.write` of it. -/
def execSend (id : Half) (din : List Byte) (s : State) : Outcome State Fault Refusal :=
  match s.payload? id din with
  | none => .next s.refuseOperand
  | some m =>
    .next ((s.transportWrite (frame s.cfg id din)).respond (frameResponse s.cfg m (frame s.cfg id din)))

end Sys2Proof.Machine
end

