-- ==== Sys2Proof/Machine/FrameDecoder.lean ====
section
/-! DEFINITION. The Frame Decoder: TRY_READ (`43_frame_decoder.md`). The meaning runs the state machine
of R165; R163's one function stands beside it, and the two must agree. -/

namespace Sys2Proof.Machine

open Host (Outcome)

/-! ## Step 1: drain (R151) -/

/-- The drain over the bytes the transport holds: it stops, with `Overrun`, before reading a byte it
has no room for, and that byte and those after it stay in the transport. -/
def State.drainFrom : List Byte → State → State
  | [], s => s.setRxq []
  | v :: rest, s =>
    if s.full then (s.setRxq (v :: rest)).raise .overrun
    else State.drainFrom rest (s.storeByte v)

/-- The drain step of TRY_READ (R151). -/
def State.drain (s : State) : State := State.drainFrom s.rxq s

/-! ## Step 2: one candidate position -/

/-- The header at a position is valid: identifier in the catalog, `12 <= total_length < C`
(R155 to R157). -/
abbrev headerValid (c : Config) (hId hLen : Half) : Prop :=
  hId.toNat < numIds ∧ hLen.toNat < c.capacity ∧ minFrame ≤ hLen.toNat

/-- One byte is given up to resynchronise (R153, R157). -/
def State.resync (s : State) : State := (s.advanceRead 1).raise .syncLoss

/-- The response to a decoded frame: `Some((id, body))` (R150, R162). -/
def frameDecoded (id : Half) (body : List Byte) : Response :=
  { code := .ok, id := id, val := BitVec.ofNat 32 body.length, data := body }

/-! ## The state machine (R165) -/

/-- One transition of the machine: on to another state, or the end of the operation with a response. -/
inductive Transition where
  | goTo (s : State)
  | finish (s : State) (r : Response)
deriving DecidableEq, Repr

/-- `IDLE`: the command is accepted. -/
def fsmIdle (s : State) : Transition := .goTo (s.setFsm .drain)

/-- `DRAIN`: all of the drain. -/
def fsmDrain (s : State) : Transition := .goTo (s.drain.setFsm .check)

/-- `CHECK`: `avail` is taken; the search goes on only with more than 8 bytes (R152). -/
def fsmCheck (s : State) : Transition :=
  let t := s.setLatch { s.latch with avail := s.unread }
  if headerSize < s.unread then .goTo (t.setFsm .sync)
  else .finish (t.setFsm .idle) (Response.bare .noFrame)

/-- `SYNC`: the preamble comparison, all 32 bits (R153). -/
def fsmSync (s : State) : Transition :=
  if s.peekU32 s.rcur = s.cfg.preamble then .goTo (s.setFsm .hdr)
  else .goTo (s.resync.setFsm .check)

/-- `HDR`: the header is deserialised and validated (R154 to R157). -/
def fsmHdr (s : State) : Transition :=
  let hId := s.peekU16 (s.rcur + 4)
  let hLen := s.peekU16 (s.rcur + 6)
  let t := s.setLatch { s.latch with hId := hId, hLen := hLen }
  if headerValid s.cfg hId hLen then .goTo (t.setFsm .len) else .goTo (t.resync.setFsm .check)

/-- `LEN`: the length wait; nothing is consumed and no flag is set (R158). -/
def fsmLen (s : State) : Transition :=
  if s.latch.avail < s.latch.hLen.toNat then .finish (s.setFsm .idle) (Response.bare .noFrame)
  else .goTo (s.setFsm .body)

/-- `BODY`: body and checksum field are copied out, the checksum recomputed (R159, R160). -/
def fsmBody (s : State) : Transition :=
  let hLen := s.latch.hLen.toNat
  let body := s.peekBytes ((s.rcur + headerSize) % s.cfg.capacity) (hLen - minFrame)
  let rxck := s.peekU32 ((s.rcur + hLen - checksumSize) % s.cfg.capacity)
  .goTo ((s.setLatch { s.latch with body := body, rxck := rxck, reg := crc16 body, ck := checksum body }).setFsm
    .consume)

/-- `CONSUME`: the whole frame is consumed, good or bad (R161). -/
def fsmConsume (s : State) : Transition := .goTo ((s.advanceRead s.latch.hLen.toNat).setFsm .verdict)

/-- `VERDICT`: a 32-bit comparison of the checksums (R162, `41_checksum.md` R136). -/
def fsmVerdict (s : State) : Transition :=
  if s.latch.ck = s.latch.rxck then .finish (s.setFsm .idle) (frameDecoded s.latch.hId s.latch.body)
  else .goTo ((s.raise .checksumMismatch).setFsm .check)

/-- One row of R165's table, by the present state. -/
def fsmStep (s : State) : Transition :=
  match s.fsm with
  | .idle => fsmIdle s
  | .drain => fsmDrain s
  | .check => fsmCheck s
  | .sync => fsmSync s
  | .hdr => fsmHdr s
  | .len => fsmLen s
  | .body => fsmBody s
  | .consume => fsmConsume s
  | .verdict => fsmVerdict s

/-- The machine run until it responds, at most `n` transitions. -/
def fsmRun : Nat → State → Option (State × Response)
  | 0, _ => none
  | n + 1, s =>
    match fsmStep s with
    | .goTo t => fsmRun n t
    | .finish t r => some (t, r)

/-- The bound on the transitions of one TRY_READ: two before the search, and at most seven for each
iteration of the search, of which R164 allows fewer than `C` (log entry 13). -/
def fsmBound (s : State) : Nat := 2 + 7 * s.cfg.capacity

/-- TRY_READ (R150): the machine is started at IDLE, runs back to IDLE inside the one operation, and its
latch is unspecified from then on (log entries 5, 14). -/
def execTryRead (s : State) : Outcome State Fault Refusal :=
  match fsmRun (fsmBound s) (s.setFsm .idle) with
  | some (t, r) => .next (t.releaseLatch.respond r)
  | none => .fault .searchBoundExceeded

/-! ## The whole operation as one function (R163) -/

/-- What one pass of R163's loop does: go round again, or respond. -/
inductive Pass where
  | again (s : State)
  | done (s : State) (r : Response)
deriving DecidableEq, Repr

/-- One pass of the loop of R163 at the present `rcur`. -/
def State.searchPass (s : State) : Pass :=
  if s.unread ≤ headerSize then .done s (Response.bare .noFrame)
  else if s.peekU32 s.rcur ≠ s.cfg.preamble then .again s.resync
  else
    let hId := s.peekU16 (s.rcur + 4)
    let hLen := (s.peekU16 (s.rcur + 6)).toNat
    if ¬ headerValid s.cfg hId (s.peekU16 (s.rcur + 6)) then .again s.resync
    else if s.unread < hLen then .done s (Response.bare .noFrame)
    else
      let body := s.peekBytes ((s.rcur + headerSize) % s.cfg.capacity) (hLen - minFrame)
      let rxck := s.peekU32 ((s.rcur + hLen - checksumSize) % s.cfg.capacity)
      if checksum body = rxck then .done (s.advanceRead hLen) (frameDecoded hId body)
      else .again ((s.advanceRead hLen).raise .checksumMismatch)

/-- The loop of R163, at most `n` passes. -/
def State.searchLoop : Nat → State → Option (State × Response)
  | 0, _ => none
  | n + 1, s =>
    match s.searchPass with
    | .again t => State.searchLoop n t
    | .done t r => some (t, r)

/-- R163 in one piece: the drain, then the loop. `C - 8` passes are enough: at most `C - 9` that go
round again (R164) and the one that responds. -/
def State.tryReadWhole (s : State) : Option (State × Response) :=
  State.searchLoop (s.cfg.capacity - 8) s.drain

end Sys2Proof.Machine
end

