-- ==== Sys2Proof/Machine/RingBuffer.lean ====
section
/-! DEFINITION. The Ring Buffer operations PUSH, AVAIL, PEEK32, PEEKB, ADVANCE (`40_ring_buffer.md`). -/

namespace Sys2Proof.Machine

open Host (Outcome)

/-- PUSH (`40_ring_buffer.md` R113): refused when full, with `Overrun`; else stored and advanced. -/
def execPush (v : Byte) (s : State) : Outcome State Fault Refusal :=
  if s.full then .next ((s.raise .overrun).respond (Response.bare .refusedFull))
  else .next ((s.storeByte v).respond (Response.bare .ok))

/-- AVAIL (`40_ring_buffer.md` R111). -/
def execAvail (pos : Half) (s : State) : Outcome State Fault Refusal :=
  if s.posLegal pos then
    .next (s.respond (Response.value (BitVec.ofNat 32 (s.availableFrom pos.toNat))))
  else .next s.refuseOperand

/-- PEEK32 (`40_ring_buffer.md` R114). -/
def execPeek32 (pos : Half) (s : State) : Outcome State Fault Refusal :=
  if s.posLegal pos then .next (s.respond (Response.value (s.peekU32 pos.toNat)))
  else .next s.refuseOperand

/-- PEEKB (`40_ring_buffer.md` R115). -/
def execPeekb (pos n : Half) (s : State) : Outcome State Fault Refusal :=
  if s.posLegal pos ∧ s.countLegal n then
    .next (s.respond (Response.bytes (s.peekBytes pos.toNat n.toNat)))
  else .next s.refuseOperand

/-- ADVANCE (`40_ring_buffer.md` R117): every `n` is legal. -/
def execAdvance (n : Half) (s : State) : Outcome State Fault Refusal :=
  .next ((s.advanceRead n.toNat).respond (Response.bare .ok))

end Sys2Proof.Machine
end

