-- ==== Sys2Proof/Machine/SystemOps.lean ====
section
/-! DEFINITION. The read-out operations RD_STATUS, CLR_STATUS, RD_CURSORS (`44_system_ops.md`). -/

namespace Sys2Proof.Machine

open Host (Outcome)

/-- RD_STATUS (`44_system_ops.md` R190): reading does not clear. -/
def execRdStatus (s : State) : Outcome State Fault Refusal :=
  .next (s.respond (Response.value s.statusWord))

/-- CLR_STATUS (`44_system_ops.md` R191). -/
def execClrStatus (mask : BitVec 3) (s : State) : Outcome State Fault Refusal :=
  .next ((s.clearFlags mask).respond (Response.bare .ok))

/-- RD_CURSORS (`44_system_ops.md` R192). -/
def execRdCursors (s : State) : Outcome State Fault Refusal :=
  .next (s.respond (Response.value s.cursorWord))

end Sys2Proof.Machine
end

