-- ==== Sys2Proof/Machine/Dispatch.lean ====
section
/-! DEFINITION. One arm per operation: the meaning of each. -/

namespace Sys2Proof.Machine

open Host (Outcome)

def exec (i : Instr) (s : State) : Host.Outcome State Fault Refusal :=
  match i with
  | .push v => Sys2Proof.Machine.execPush v s
  | .avail pos => Sys2Proof.Machine.execAvail pos s
  | .peek32 pos => Sys2Proof.Machine.execPeek32 pos s
  | .peekb pos n => Sys2Proof.Machine.execPeekb pos n s
  | .advance n => Sys2Proof.Machine.execAdvance n s
  | .checksum len din => Sys2Proof.Machine.execChecksum len din s
  | .encode id din => Sys2Proof.Machine.execEncode id din s
  | .send id din => Sys2Proof.Machine.execSend id din s
  | .tryRead => Sys2Proof.Machine.execTryRead s
  | .rdStatus => Sys2Proof.Machine.execRdStatus s
  | .clrStatus mask => Sys2Proof.Machine.execClrStatus mask s
  | .rdCursors => Sys2Proof.Machine.execRdCursors s

end Sys2Proof.Machine
end

