-- ==== Sys2Proof/Machine/HostPort.lean ====
section
/-! DEFINITION. What the core takes next from the outside world (`00_scope.md` R13). The block fetches no
program (`20_memory.md` R74): the next command of the host stands where a fetch would. -/

namespace Sys2Proof.Machine

/-- What is offered to the core, and the state with that item taken from `inputs`. -/
inductive Offer where
  /-- Nothing: the block stays constructed and idle (`60_exceptions.md` R217). -/
  | nothing
  /-- Bytes arrive at the transport. -/
  | arrival (bytes : List Byte) (s : State)
  /-- A command word that is a reserved encoding (`30_encoding.md` R98). -/
  | reserved (e : DecodeError) (s : State)
  /-- A command that decodes to an operation. -/
  | operation (i : Instr) (s : State)

/-- `inputs` with its first item taken. -/
def State.dropInput (s : State) : State := { s with inputs := s.inputs.tail }

/-- The next item offered to the core, its command word decoded. -/
def State.nextOffer (s : State) : Offer :=
  match s.inputs with
  | [] => .nothing
  | .arrive bytes :: _ => .arrival bytes s.dropInput
  | .command w din :: _ =>
    match decode w din with
    | .error e => .reserved e s.dropInput
    | .ok i => .operation i s.dropInput

/-- A command put where the step takes its next input. -/
def State.offerCommand (s : State) (w : CmdWord) (din : List Byte) : State :=
  { s with inputs := .command w din :: s.inputs }

end Sys2Proof.Machine
end

