-- ==== Sys2Proof/Machine/Step.lean ====
section
/-! DEFINITION. One step: one whole operation of the core, or one arrival, or nothing (`00_scope.md` R13). -/

namespace Sys2Proof.Machine

open Host (Outcome)

/-- One step. A configuration outside `00_scope.md` R8 is refused (`93_implementation_defined.md` U17);
a reserved command is answered with BAD_CMD and nothing else happens (`30_encoding.md` R98). -/
def step (s : State) : Outcome State Fault Refusal :=
  if s.cfg.wf then
    match s.nextOffer with
    | .nothing => .next s
    | .arrival bytes t => .next (t.arrive bytes)
    | .reserved _ t => .next t.refuseCommand
    | .operation i t => exec i t
  else .refused .invalidConfiguration

/-- `s` with the command of one opcode-table word, and the zero bytes of its `din`, as the next thing the
host issues (log entry 11). -/
def State.withFetchWord (s : State) (nbits w : Nat) : State :=
  s.offerCommand (tableWord nbits w) (zeroDin (tableWord nbits w))

end Sys2Proof.Machine
end

