-- ==== Sys2Proof/Machine/StreamDecoder.lean ====
section
/-! DEFINITION. The search of TRY_READ as a function of a byte stream alone, with no ring, no cursor and
no latch: what `43_frame_decoder.md` R152 to R162 say of the unread bytes, oldest first. It is not used by
any meaning; claims compare TRY_READ with it. -/

namespace Sys2Proof.Machine

/-- What a search does to the stream: how many bytes it consumes, which `STATUS` bits it sets, and the
response it ends with. -/
structure StreamResult where
  consumed : Nat
  flags : BitVec 3
  response : Response
deriving DecidableEq, Repr

/-- The search goes on after `n` bytes were given up with an event. -/
def StreamResult.after (r : StreamResult) (n : Nat) (e : Event) : StreamResult :=
  { r with consumed := n + r.consumed, flags := e.bit ||| r.flags }

/-- The search stops with nothing consumed. -/
def streamNoFrame : StreamResult := { consumed := 0, flags := 0#3, response := Response.bare .noFrame }

/-- The search over the unread bytes `u`, at most `n` candidates; `n = len(u)` is always enough
(`43_frame_decoder.md` R164). -/
def streamSearch (c : Config) : Nat → List Byte → StreamResult
  | 0, _ => streamNoFrame
  | n + 1, u =>
    if u.length ≤ headerSize then streamNoFrame
    else if u.take 4 ≠ leBytes 4 c.preamble then (streamSearch c n (u.drop 1)).after 1 .syncLoss
    else
      let hId := uLe ((u.drop 4).take 2)
      let hLen := uLe ((u.drop 6).take 2)
      if ¬ (hId < numIds ∧ hLen < c.capacity ∧ minFrame ≤ hLen) then
        (streamSearch c n (u.drop 1)).after 1 .syncLoss
      else if u.length < hLen then streamNoFrame
      else
        let body := (u.drop headerSize).take (hLen - minFrame)
        if (u.drop (hLen - checksumSize)).take 4 = leBytes 4 (checksum body) then
          { consumed := hLen, flags := 0#3, response := frameDecoded (BitVec.ofNat 16 hId) body }
        else (streamSearch c n (u.drop hLen)).after hLen .checksumMismatch

/-- What one TRY_READ does to the stream of unread bytes. -/
def streamRead (c : Config) (u : List Byte) : StreamResult := streamSearch c u.length u

end Sys2Proof.Machine
end

