-- ==== Sys2Proof/Safety.lean ====
section
/-! DEFINITION. What a good state of the machine is, in the terms the claims use. -/

namespace Sys2Proof.Machine

/-- The invariant of every state a step can reach from construction. -/
structure State.Inv (s : State) : Prop where
  /-- The configuration meets `00_scope.md` R8. -/
  cfg_wf : s.cfg.wf
  /-- `wcur` is in `[0, C-1]` (`10_state.md` R21). -/
  wcur_lt : s.wcur < s.cfg.capacity
  /-- `rcur` is in `[0, C-1]` (`10_state.md` R22). -/
  rcur_lt : s.rcur < s.cfg.capacity
  /-- Ring storage is in canonical form. -/
  buf_wf : s.buf.wf
  /-- Ring storage has the indices `0 .. C-1` and no others (`10_state.md` R20). -/
  buf_lt : ∀ c ∈ s.buf, c.1 < s.cfg.capacity
  /-- The state machine is at `IDLE` between operations (`10_state.md` R25). -/
  fsm_idle : s.fsm = .idle
  /-- The latch keeps its widths (`10_state.md` R26). -/
  avail_lt : s.latch.avail < s.cfg.capacity
  body_le : s.latch.body.length ≤ s.cfg.capacity - 13

/-- Index `i` has been written by a push since construction (`10_state.md` R20, R24). -/
abbrev State.written (s : State) (i : Nat) : Prop := (s.buf.read? i).isSome = true

/-- Index `i` is in the unread region (`10_state.md` R24). -/
def State.inUnread (s : State) (i : Nat) : Prop :=
  ∃ k, k < s.unread ∧ i = (s.rcur + k) % s.cfg.capacity

/-- Invariant I-unread of `10_state.md` R24: every byte of the unread region has been written by a push. -/
def State.UnreadWritten (s : State) : Prop :=
  ∀ k, k < s.unread → s.written ((s.rcur + k) % s.cfg.capacity)

/-- The next input keeps the host's side of `70_reset_and_hazards.md` R241: if it is an ADVANCE, then
`n <= available_from(rcur)`. -/
def State.advanceWithinUnread (s : State) : Prop :=
  ∀ w din rest n, s.inputs = .command w din :: rest → decode w din = .ok (.advance n) →
    n.toNat ≤ s.unread

/-- The bytes of the unread region, oldest first. -/
def State.unreadBytes (s : State) : List Byte := s.peekBytes s.rcur s.unread

/-- How many bytes the drain of the next TRY_READ moves: `min(len(rxq), C - 1 - available_from(rcur))`
(`43_frame_decoder.md` R151). -/
def State.drainCount (s : State) : Nat := min s.rxq.length (s.cfg.capacity - 1 - s.unread)

/-- The stream a TRY_READ searches: the unread bytes and then the bytes its drain moves. -/
def State.stream (s : State) : List Byte := s.unreadBytes ++ s.rxq.take s.drainCount

/-- A command that the block answers with BAD_CMD and no other effect (`30_encoding.md` R98). -/
def AnsweredBadCmd (w : CmdWord) (din : List Byte) : Prop :=
  ∀ (s : State) (rest : List Input), s.cfg.wf → s.inputs = .command w din :: rest →
    step s = .next { s with inputs := rest, responses := s.responses ++ [⟨.badCmd, 0#16, 0#32, []⟩] }

/-- A command that the block runs as the operation `i`. -/
def RunsAs (w : CmdWord) (din : List Byte) (i : Instr) : Prop :=
  ∀ (s : State) (rest : List Input), s.cfg.wf → s.inputs = .command w din :: rest →
    step s = exec i { s with inputs := rest }

/-- `t` is `s` with the cursors moved by `d` around the ring and the bytes rotated with them
(`40_ring_buffer.md` R118 law 6). -/
structure Rotated (d : Nat) (s t : State) : Prop where
  cfg_eq : t.cfg = s.cfg
  wcur_eq : t.wcur = (s.wcur + d) % s.cfg.capacity
  rcur_eq : t.rcur = (s.rcur + d) % s.cfg.capacity
  bytes_eq : ∀ i, i < s.cfg.capacity → t.readByte ((i + d) % s.cfg.capacity) = s.readByte i
  status_eq : t.status = s.status
  rxq_eq : t.rxq = s.rxq
  txlog_eq : t.txlog = s.txlog

/-- An operation with its position operand moved by `d` around the ring. -/
def shiftPosition (c : Config) (d : Nat) : Instr → Instr
  | .avail pos => .avail (BitVec.ofNat 16 ((pos.toNat + d) % c.capacity))
  | .peek32 pos => .peek32 (BitVec.ofNat 16 ((pos.toNat + d) % c.capacity))
  | .peekb pos n => .peekb (BitVec.ofNat 16 ((pos.toNat + d) % c.capacity)) n
  | .push v => .push v
  | .advance n => .advance n
  | .checksum len din => .checksum len din
  | .encode id din => .encode id din
  | .send id din => .send id din
  | .tryRead => .tryRead
  | .rdStatus => .rdStatus
  | .clrStatus mask => .clrStatus mask
  | .rdCursors => .rdCursors

/-- A byte sequence with bit `k` of byte `i` changed. -/
def flipBit (l : List Byte) (i k : Nat) : List Byte := l.modify i (· ^^^ (1#8 <<< k))

/-- A state is safe when one step from it ends in a next state. -/
def State.Safe (s : State) : Prop := ∃ t, step s = .next t

end Sys2Proof.Machine
end

