-- ==== Sys2Proof/Certificates/Slice0/Obligations.lean ====
section
/-! DEFINITION. The statements for the provers. Each docstring names the rule of the spec; a clause that
rests on a choice of the model names its log entry. -/

open Sys2Proof Sys2Proof.Machine

/-! ## Construction -/

/-- `70_reset_and_hazards.md` R231, R232: after construction both cursors are 0, the buffer is empty,
STATUS is 0 and `fsm` is IDLE, whatever the configuration. -/
def Obligations.ConstructionLeavesTheBlockEmpty : Prop :=
  ∀ (c : Config) (p : Nat),
    (State.construct c p).wcur = 0 ∧ (State.construct c p).rcur = 0 ∧ (State.construct c p).unread = 0 ∧
    (State.construct c p).ovr = false ∧ (State.construct c p).rej = false ∧
    (State.construct c p).rsy = false ∧ (State.construct c p).fsm = .idle

/-- The constructed block meets the invariant for every configuration of `00_scope.md` R8, no byte of
`buf` has been written (`70_reset_and_hazards.md` R233), so I-unread holds; and `State.reset` is such a
block (its configuration is the model's choice, log entry 2). -/
def Obligations.ConstructionMeetsTheInvariant : Prop :=
  (∀ (c : Config) (p : Nat), c.wf →
    (State.construct c p).Inv ∧ (State.construct c p).UnreadWritten ∧
    ∀ i, ¬ (State.construct c p).written i) ∧
  State.reset.Inv

/-! ## Encoding -/

/-- Every instruction is read back from its own command (`30_encoding.md` R93 to R95). -/
def Obligations.DecodeOfEncodeIsTheInstruction : Prop :=
  ∀ i : Instr, decode (encode i).1 (encode i).2 = .ok i

/-- Each command that decodes is the one command of its instruction, and its word lies in that
instruction's row of the opcode table. -/
def Obligations.DecodedCommandIsTheEncodedOne : Prop :=
  ∀ (w : CmdWord) (din : List Byte) (i : Instr), decode w din = .ok i →
    encode i = (w, din) ∧ w &&& i.op.tableMask = i.op.tableMatch

/-- The reserved encodings of `30_encoding.md` R98, spelled out from the table of R95 and from R94: an
`op` outside the twelve, a must-be-zero field that is not 0, an unexpected `din`. -/
def Obligations.ReservedEncodingsAreExactlyThoseOfTheTable : Prop :=
  ∀ (w : CmdWord) (din : List Byte), (∃ e, decode w din = .error e) ↔
    (opField w ∉ [0x01#8, 0x02#8, 0x03#8, 0x04#8, 0x05#8, 0x10#8, 0x20#8, 0x21#8, 0x30#8, 0xF0#8, 0xF1#8, 0xF2#8]) ∨
    (opField w ∈ [0x01#8, 0x05#8, 0x10#8, 0x30#8, 0xF0#8, 0xF1#8, 0xF2#8] ∧ aField w ≠ 0#16) ∨
    (opField w ∈ [0x02#8, 0x03#8, 0x20#8, 0x21#8, 0x30#8, 0xF0#8, 0xF2#8] ∧ bField w ≠ 0#16) ∨
    (opField w = 0x01#8 ∧ 256 ≤ (bField w).toNat) ∨
    (opField w = 0xF1#8 ∧ 8 ≤ (bField w).toNat) ∨
    (opField w ∉ [0x10#8, 0x20#8, 0x21#8] ∧ din ≠ [])

/-- Words written out in `30_encoding.md` R99 decode to the operations written beside them. -/
def Obligations.WordsOfTheSyntaxRuleDecode : Prop :=
  decode 0x0100000041#40 [] = .ok (.push 0x41#8) ∧
  decode 0x0200050000#40 [] = .ok (.avail 5#16) ∧
  decode 0x0300260000#40 [] = .ok (.peek32 38#16) ∧
  decode 0x0400250005#40 [] = .ok (.peekb 37#16 5#16) ∧
  decode 0x0500000012#40 [] = .ok (.advance 18#16) ∧
  decode 0x1000000003#40 [0xAA#8, 0xBB#8, 0xCC#8] = .ok (.checksum 3#16 [0xAA#8, 0xBB#8, 0xCC#8]) ∧
  decode 0x2000010000#40 [0xAA#8, 0xBB#8, 0xCC#8] = .ok (.encode 1#16 [0xAA#8, 0xBB#8, 0xCC#8]) ∧
  decode 0x2100000000#40 [1#8, 2#8, 3#8, 4#8, 5#8, 6#8] = .ok (.send 0#16 [1#8, 2#8, 3#8, 4#8, 5#8, 6#8]) ∧
  decode 0x3000000000#40 [] = .ok .tryRead ∧
  decode 0xF000000000#40 [] = .ok .rdStatus ∧
  decode 0xF100000007#40 [] = .ok (.clrStatus 7#3) ∧
  decode 0xF200000000#40 [] = .ok .rdCursors

/-! ## The step -/

/-- A step runs the operation its command decodes to, on the state with that command taken (the queue of
inputs is the model's form of `00_scope.md` R13, log entry 8). -/
def Obligations.StepRunsTheDecodedOperation : Prop :=
  ∀ (w : CmdWord) (din : List Byte) (i : Instr), decode w din = .ok i → RunsAs w din i

/-- `30_encoding.md` R98, first test: a reserved encoding is answered with BAD_CMD and changes no state of
the block or the transport, STATUS included (a next state: log entry 10). -/
def Obligations.ReservedCommandIsAnsweredBadCmd : Prop :=
  ∀ (w : CmdWord) (din : List Byte) (e : DecodeError), decode w din = .error e → AnsweredBadCmd w din

/-- `30_encoding.md` R98, second test, over all operations: operands out of range are answered with
BAD_OPERAND and change no state; operands in range never are. That this answer is a next state is the model's
reading of R98 (log entry 10). -/
def Obligations.IllegalOperandsAreAnsweredBadOperand : Prop :=
  ∀ (i : Instr) (s t : State),
    (i.wellFormed s.cfg = false →
      exec i s = .next { s with responses := s.responses ++ [⟨.badOperand, 0#16, 0#32, []⟩] }) ∧
    (i.wellFormed s.cfg = true → exec i s = .next t →
      ∃ r : Response, t.responses = s.responses ++ [r] ∧ r.code ≠ .badOperand ∧ r.code ≠ .badCmd)

/-- `20_memory.md` R65: an arrival is a step of its own that appends to `rxq`; with nothing offered the
block stays as it is (log entry 8). -/
def Obligations.ArrivalsAppendAndIdleStepsChangeNothing : Prop :=
  ∀ (s : State) (bytes : List Byte) (rest : List Input), s.cfg.wf →
    (s.inputs = .arrive bytes :: rest → step s = .next { s with inputs := rest, rxq := s.rxq ++ bytes }) ∧
    (s.inputs = [] → step s = .next s)

/-! ## The Ring Buffer operations -/

/-- `40_ring_buffer.md` R113.
That a command is taken from `inputs`, and a refusal (BAD_CMD, BAD_OPERAND) a next state, is the model's
reading (log entries 8, 10). -/
def Obligations.PushStoresAtTheWriteCursorOrRefuses : Prop :=
  (∀ (a b : Half) (din : List Byte),
    (a = 0#16 ∧ b.toNat < 256 ∧ din = [] →
      RunsAs (commandWord 0x01#8 a b) din (.push (b.extractLsb' 0 8))) ∧
    (¬ (a = 0#16 ∧ b.toNat < 256 ∧ din = []) → AnsweredBadCmd (commandWord 0x01#8 a b) din)) ∧
  ∀ (v : Byte) (s : State),
    (s.availableFrom s.rcur = s.cfg.capacity - 1 →
      exec (.push v) s = .next { s with
        status := s.status ||| 0b001#3, responses := s.responses ++ [⟨.refusedFull, 0#16, 0#32, []⟩] }) ∧
    (s.availableFrom s.rcur ≠ s.cfg.capacity - 1 → ∃ t, exec (.push v) s = .next t ∧
      t = { s with
        buf := t.buf, wcur := (s.wcur + 1) % s.cfg.capacity,
        responses := s.responses ++ [⟨.ok, 0#16, 0#32, []⟩] } ∧
      t.readByte s.wcur = v ∧ ∀ a, a ≠ s.wcur → t.readByte a = s.readByte a)

/-- `40_ring_buffer.md` R111, with the common operand check of R110.
That a command is taken from `inputs`, and a refusal (BAD_CMD, BAD_OPERAND) a next state, is the model's
reading (log entries 8, 10). -/
def Obligations.AvailCountsForwardToTheWriteCursor : Prop :=
  (∀ (a b : Half) (din : List Byte),
    (b = 0#16 ∧ din = [] → RunsAs (commandWord 0x02#8 a b) din (.avail a)) ∧
    (¬ (b = 0#16 ∧ din = []) → AnsweredBadCmd (commandWord 0x02#8 a b) din)) ∧
  ∀ (pos : Half) (s : State),
    (s.cfg.capacity ≤ pos.toNat →
      exec (.avail pos) s = .next { s with responses := s.responses ++ [⟨.badOperand, 0#16, 0#32, []⟩] }) ∧
    (pos.toNat < s.cfg.capacity → exec (.avail pos) s = .next { s with
      responses := s.responses ++ [⟨.ok, 0#16, BitVec.ofNat 32
        (if pos.toNat ≤ s.wcur then s.wcur - pos.toNat else s.cfg.capacity + s.wcur - pos.toNat), []⟩] }) ∧
    (pos.toNat < s.cfg.capacity → s.wcur < s.cfg.capacity →
      s.availableFrom pos.toNat = (s.cfg.capacity + s.wcur - pos.toNat) % s.cfg.capacity)

/-- `40_ring_buffer.md` R114: four bytes, little-endian, wrapping; nothing else changes.
That a command is taken from `inputs`, and a refusal (BAD_CMD, BAD_OPERAND) a next state, is the model's
reading (log entries 8, 10). -/
def Obligations.Peek32ReadsFourBytesLittleEndian : Prop :=
  (∀ (a b : Half) (din : List Byte),
    (b = 0#16 ∧ din = [] → RunsAs (commandWord 0x03#8 a b) din (.peek32 a)) ∧
    (¬ (b = 0#16 ∧ din = []) → AnsweredBadCmd (commandWord 0x03#8 a b) din)) ∧
  ∀ (pos : Half) (s : State),
    (s.cfg.capacity ≤ pos.toNat →
      exec (.peek32 pos) s = .next { s with responses := s.responses ++ [⟨.badOperand, 0#16, 0#32, []⟩] }) ∧
    (pos.toNat < s.cfg.capacity → ∃ v : Word,
      exec (.peek32 pos) s = .next { s with responses := s.responses ++ [⟨.ok, 0#16, v, []⟩] } ∧
      ∀ k, k < 4 → v.extractLsb' (8 * k) 8 = s.readByte ((pos.toNat + k) % s.cfg.capacity))

/-- `40_ring_buffer.md` R115: `n` bytes in stream order, wrapping; nothing else changes.
That a command is taken from `inputs`, and a refusal (BAD_CMD, BAD_OPERAND) a next state, is the model's
reading (log entries 8, 10). -/
def Obligations.PeekbCopiesBytesInStreamOrder : Prop :=
  (∀ (a b : Half) (din : List Byte),
    (din = [] → RunsAs (commandWord 0x04#8 a b) din (.peekb a b)) ∧
    (din ≠ [] → AnsweredBadCmd (commandWord 0x04#8 a b) din)) ∧
  ∀ (pos n : Half) (s : State),
    (s.cfg.capacity ≤ pos.toNat ∨ s.cfg.capacity ≤ n.toNat →
      exec (.peekb pos n) s = .next { s with responses := s.responses ++ [⟨.badOperand, 0#16, 0#32, []⟩] }) ∧
    (pos.toNat < s.cfg.capacity → n.toNat < s.cfg.capacity → ∃ d : List Byte,
      exec (.peekb pos n) s = .next { s with responses := s.responses ++ [⟨.ok, 0#16, 0#32, d⟩] } ∧
      d.length = n.toNat ∧
      ∀ k, k < n.toNat → d[k]? = some (s.readByte ((pos.toNat + k) % s.cfg.capacity)))

/-- `40_ring_buffer.md` R117: the modular advance, whatever `n` is; within the unread region it lowers the
unread count by exactly `n`, and beyond it the count becomes `(available_from(rcur) - n) mod C`.
That a command is taken from `inputs`, and a refusal (BAD_CMD, BAD_OPERAND) a next state, is the model's
reading (log entries 8, 10). -/
def Obligations.AdvanceMovesTheReadCursor : Prop :=
  (∀ (a b : Half) (din : List Byte),
    (a = 0#16 ∧ din = [] → RunsAs (commandWord 0x05#8 a b) din (.advance b)) ∧
    (¬ (a = 0#16 ∧ din = []) → AnsweredBadCmd (commandWord 0x05#8 a b) din)) ∧
  ∀ (n : Half) (s : State),
    exec (.advance n) s = .next { s with
      rcur := (s.rcur + n.toNat) % s.cfg.capacity, responses := s.responses ++ [⟨.ok, 0#16, 0#32, []⟩] } ∧
    (s.Inv → ∀ t, exec (.advance n) s = .next t →
      (n.toNat ≤ s.unread → t.unread + n.toNat = s.unread) ∧
      (t.unread : Int) = ((s.unread : Int) - n.toNat) % s.cfg.capacity)

/-! ## The Checksum Engine -/

/-- `41_checksum.md` R131, for every register and byte: the byte is XORed into the low byte, then the
register is shifted right eight times, the polynomial XORed in when the bit shifted out was 1; with R131's
worked step. -/
def Obligations.CrcStepShiftsRightWithPolynomial : Prop :=
  (∀ (reg : Half) (v : Byte), crc16Step reg v =
    (List.range 8).foldl
      (fun r _ => if r.toNat % 2 = 1 then BitVec.ofNat 16 (r.toNat / 2) ^^^ 0xA001#16
        else BitVec.ofNat 16 (r.toNat / 2))
      (reg ^^^ BitVec.ofNat 16 v.toNat)) ∧
  crc16Step 0xFFFF#16 0x01#8 = 0x807E#16

/-- `41_checksum.md` R132 and R133: the register starts at 0xFFFF and takes the bytes in order; the
checksum is the CRC in a 32-bit value whose upper half is zero, and on the wire its low byte comes first. -/
def Obligations.ChecksumIsTheZeroExtendedCrc : Prop :=
  crc16 [] = 0xFFFF#16 ∧
  (∀ (s : List Byte) (v : Byte), crc16 (s ++ [v]) = crc16Step (crc16 s) v) ∧
  ∀ s : List Byte, (checksum s).toNat = (crc16 s).toNat ∧
    leBytes 4 (checksum s) = [(crc16 s).extractLsb' 0 8, (crc16 s).extractLsb' 8 8, 0#8, 0#8]

/-- `41_checksum.md` R134.
That a command is taken from `inputs`, and a refusal (BAD_CMD, BAD_OPERAND) a next state, is the model's
reading (log entries 8, 10). -/
def Obligations.ChecksumCommandReturnsTheChecksum : Prop :=
  (∀ (a b : Half) (din : List Byte),
    (a = 0#16 → RunsAs (commandWord 0x10#8 a b) din (.checksum b din)) ∧
    (a ≠ 0#16 → AnsweredBadCmd (commandWord 0x10#8 a b) din)) ∧
  ∀ (len : Half) (din : List Byte) (s : State),
    (len.toNat ≠ din.length →
      exec (.checksum len din) s =
        .next { s with responses := s.responses ++ [⟨.badOperand, 0#16, 0#32, []⟩] }) ∧
    (len.toNat = din.length →
      exec (.checksum len din) s =
        .next { s with responses := s.responses ++ [⟨.ok, 0#16, (crc16 din).setWidth 32, []⟩] })

/-- Every single-bit change of a byte sequence changes its CRC (the property of WTC quoted in
`41_checksum.md` R137, in the strong form that follows from R131 and R132). -/
def Obligations.SingleBitChangeAlwaysChangesTheCrc : Prop :=
  ∀ (body : List Byte) (i k : Nat), i < body.length → k < 8 → crc16 (flipBit body i k) ≠ crc16 body

/-! ## The Frame Encoder -/

/-- `42_frame_encoder.md` R141 and `30_encoding.md` R80: the fields of a frame, by offset. -/
def Obligations.FrameHasTheFieldsOfTheWireFormat : Prop :=
  ∀ (c : Config) (id : Half) (payload : List Byte), 12 + payload.length ≤ 65535 →
    (frame c id payload).length = 12 + payload.length ∧
    uLe ((frame c id payload).take 4) = c.preamble.toNat ∧
    uLe (((frame c id payload).drop 4).take 2) = id.toNat ∧
    uLe (((frame c id payload).drop 6).take 2) = 12 + payload.length ∧
    ((frame c id payload).drop 8).take payload.length = payload ∧
    uLe ((frame c id payload).drop (8 + payload.length)) = (crc16 payload).toNat

/-- `42_frame_encoder.md` R142.
That a command is taken from `inputs`, and a refusal (BAD_CMD, BAD_OPERAND) a next state, is the model's
reading (log entries 8, 10). -/
def Obligations.EncodeReturnsTheFrame : Prop :=
  (∀ (a b : Half) (din : List Byte),
    (b = 0#16 → RunsAs (commandWord 0x20#8 a b) din (.encode a din)) ∧
    (b ≠ 0#16 → AnsweredBadCmd (commandWord 0x20#8 a b) din)) ∧
  ∀ (id : Half) (din : List Byte) (s : State),
    (¬ ((id = 0#16 ∧ din.length = s.cfg.aeroSize) ∨ (id = 1#16 ∧ din.length = s.cfg.controlSize)) →
      exec (.encode id din) s =
        .next { s with responses := s.responses ++ [⟨.badOperand, 0#16, 0#32, []⟩] }) ∧
    ((id = 0#16 ∧ din.length = s.cfg.aeroSize) ∨ (id = 1#16 ∧ din.length = s.cfg.controlSize) →
      exec (.encode id din) s = .next { s with
        responses := s.responses ++ [⟨.ok, 0#16, BitVec.ofNat 32 (12 + din.length), frame s.cfg id din⟩] })

/-- `42_frame_encoder.md` R143: as ENCODE, and `txlog` gains the frame as one entry.
That a command is taken from `inputs`, and a refusal (BAD_CMD, BAD_OPERAND) a next state, is the model's
reading (log entries 8, 10). -/
def Obligations.SendWritesTheFrameOnce : Prop :=
  (∀ (a b : Half) (din : List Byte),
    (b = 0#16 → RunsAs (commandWord 0x21#8 a b) din (.send a din)) ∧
    (b ≠ 0#16 → AnsweredBadCmd (commandWord 0x21#8 a b) din)) ∧
  ∀ (id : Half) (din : List Byte) (s : State),
    (¬ ((id = 0#16 ∧ din.length = s.cfg.aeroSize) ∨ (id = 1#16 ∧ din.length = s.cfg.controlSize)) →
      exec (.send id din) s =
        .next { s with responses := s.responses ++ [⟨.badOperand, 0#16, 0#32, []⟩] }) ∧
    ((id = 0#16 ∧ din.length = s.cfg.aeroSize) ∨ (id = 1#16 ∧ din.length = s.cfg.controlSize) →
      exec (.send id din) s = .next { s with
        txlog := s.txlog ++ [frame s.cfg id din],
        responses := s.responses ++ [⟨.ok, 0#16, BitVec.ofNat 32 (12 + din.length), frame s.cfg id din⟩] })

/-! ## Status and cursor read-out -/

/-- `44_system_ops.md` R190.
That a command is taken from `inputs`, and a refusal (BAD_CMD, BAD_OPERAND) a next state, is the model's
reading (log entries 8, 10). -/
def Obligations.RdStatusReturnsTheFlags : Prop :=
  (∀ (a b : Half) (din : List Byte),
    (a = 0#16 ∧ b = 0#16 ∧ din = [] → RunsAs (commandWord 0xF0#8 a b) din .rdStatus) ∧
    (¬ (a = 0#16 ∧ b = 0#16 ∧ din = []) → AnsweredBadCmd (commandWord 0xF0#8 a b) din)) ∧
  ∀ s : State, ∃ v : Word,
    exec .rdStatus s = .next { s with responses := s.responses ++ [⟨.ok, 0#16, v, []⟩] } ∧
    v.getLsbD 0 = s.ovr ∧ v.getLsbD 1 = s.rej ∧ v.getLsbD 2 = s.rsy ∧ v.toNat < 8

/-- `44_system_ops.md` R191.
That a command is taken from `inputs`, and a refusal (BAD_CMD, BAD_OPERAND) a next state, is the model's
reading (log entries 8, 10). -/
def Obligations.ClrStatusClearsTheMaskedFlags : Prop :=
  (∀ (a b : Half) (din : List Byte),
    (a = 0#16 ∧ b.toNat < 8 ∧ din = [] →
      RunsAs (commandWord 0xF1#8 a b) din (.clrStatus (b.extractLsb' 0 3))) ∧
    (¬ (a = 0#16 ∧ b.toNat < 8 ∧ din = []) → AnsweredBadCmd (commandWord 0xF1#8 a b) din)) ∧
  ∀ (mask : BitVec 3) (s : State), ∃ t,
    exec (.clrStatus mask) s = .next t ∧
    t = { s with status := t.status, responses := s.responses ++ [⟨.ok, 0#16, 0#32, []⟩] } ∧
    t.ovr = (s.ovr && !mask.getLsbD 0) ∧ t.rej = (s.rej && !mask.getLsbD 1) ∧
    t.rsy = (s.rsy && !mask.getLsbD 2)

/-- `44_system_ops.md` R192; both cursors fit 16 bits by `00_scope.md` R8.
That a command is taken from `inputs`, and a refusal (BAD_CMD, BAD_OPERAND) a next state, is the model's
reading (log entries 8, 10). -/
def Obligations.RdCursorsReturnsBothCursors : Prop :=
  (∀ (a b : Half) (din : List Byte),
    (a = 0#16 ∧ b = 0#16 ∧ din = [] → RunsAs (commandWord 0xF2#8 a b) din .rdCursors) ∧
    (¬ (a = 0#16 ∧ b = 0#16 ∧ din = []) → AnsweredBadCmd (commandWord 0xF2#8 a b) din)) ∧
  ∀ s : State, s.Inv → ∃ v : Word,
    exec .rdCursors s = .next { s with responses := s.responses ++ [⟨.ok, 0#16, v, []⟩] } ∧
    v.toNat = s.wcur * 65536 + s.rcur

/-! ## The Frame Decoder -/

/-- TRY_READ completes from every state with the invariant, with one response that is `OK` or `NO_FRAME`,
and the state machine is back at IDLE (`43_frame_decoder.md` R150, R164, R165).
That a command is taken from `inputs`, and a refusal (BAD_CMD, BAD_OPERAND) a next state, is the model's
reading (log entries 8, 10). -/
def Obligations.TryReadAlwaysCompletes : Prop :=
  (∀ (a b : Half) (din : List Byte),
    (a = 0#16 ∧ b = 0#16 ∧ din = [] → RunsAs (commandWord 0x30#8 a b) din .tryRead) ∧
    (¬ (a = 0#16 ∧ b = 0#16 ∧ din = []) → AnsweredBadCmd (commandWord 0x30#8 a b) din)) ∧
  ∀ s : State, s.Inv → ∃ t r, exec .tryRead s = .next t ∧ t.responses = s.responses ++ [r] ∧
    (r.code = .ok ∨ r = ⟨.noFrame, 0#16, 0#32, []⟩) ∧ t.fsm = .idle

/-- `43_frame_decoder.md` R151: the drain moves the oldest `k` bytes of `rxq`, `k` the smaller of its length
and the free room, to `buf[wcur], buf[wcur+1], ...`; it sets `OVR` exactly when bytes remain. -/
def Obligations.DrainMovesTheOldestBytesThatFit : Prop :=
  ∀ (s : State) (k : Nat), s.Inv → k = min s.rxq.length (s.cfg.capacity - 1 - s.unread) →
    s.drain = { s with
      buf := s.drain.buf, wcur := (s.wcur + k) % s.cfg.capacity, rxq := s.rxq.drop k,
      status := if s.cfg.capacity - 1 - s.unread < s.rxq.length then s.status ||| 0b001#3 else s.status } ∧
    s.drain.unread = s.unread + k ∧
    (∀ j, j < k → s.rxq[j]? = some (s.drain.readByte ((s.wcur + j) % s.cfg.capacity))) ∧
    (∀ a, (∀ j, j < k → a ≠ (s.wcur + j) % s.cfg.capacity) → s.drain.readByte a = s.readByte a)

/-- `43_frame_decoder.md` R163: Step 1 and then Step 2. TRY_READ is the drain followed by the search, which
does not look at the transport again. -/
def Obligations.TryReadIsTheDrainThenTheSearch : Prop :=
  ∀ s : State, s.Inv → ∃ t, exec .tryRead { s.drain with rxq := [] } = .next t ∧
    exec .tryRead s = .next { t with rxq := s.drain.rxq }

/-- `43_frame_decoder.md` R153, R155, R156, R157: with more than 8 bytes unread, a preamble that differs or a
header that is not valid costs exactly one byte and sets `RSY`, and the search goes on. -/
def Obligations.ResynchronisationCostsOneByte : Prop :=
  ∀ s : State, s.Inv → s.rxq = [] → 8 < s.unread →
    (s.peekU32 s.rcur ≠ s.cfg.preamble ∨ 2 ≤ (s.peekU16 (s.rcur + 4)).toNat ∨
      s.cfg.capacity ≤ (s.peekU16 (s.rcur + 6)).toNat ∨ (s.peekU16 (s.rcur + 6)).toNat < 12) →
    exec .tryRead s =
      exec .tryRead { s with rcur := (s.rcur + 1) % s.cfg.capacity, status := s.status ||| 0b100#3 }

/-- `43_frame_decoder.md` R152, R158: with at most 8 bytes unread, or with a valid header whose frame is
incomplete, TRY_READ ends with `NO_FRAME`, consumes nothing and sets no flag (the latch is unspecified
afterwards: log entry 5). -/
def Obligations.IncompleteFrameIsLeftInPlace : Prop :=
  ∀ s : State, s.Inv → s.rxq = [] →
    (s.unread ≤ 8 ∨
      (s.peekU32 s.rcur = s.cfg.preamble ∧ (s.peekU16 (s.rcur + 4)).toNat < 2 ∧
        12 ≤ (s.peekU16 (s.rcur + 6)).toNat ∧ (s.peekU16 (s.rcur + 6)).toNat < s.cfg.capacity ∧
        s.unread < (s.peekU16 (s.rcur + 6)).toNat)) →
    ∃ t, exec .tryRead s = .next t ∧
      t = { s with
        latch := t.latch, draws := t.draws, responses := s.responses ++ [⟨.noFrame, 0#16, 0#32, []⟩] }

/-- `43_frame_decoder.md` R159 to R162, the good frame: valid header, all bytes present, checksum field equal
to the recomputed checksum. The whole frame is consumed, the body and the identifier are returned, and no
flag is set. -/
def Obligations.GoodFrameIsConsumedAndDelivered : Prop :=
  ∀ (s : State) (len : Nat) (body : List Byte), s.Inv → s.rxq = [] →
    s.peekU32 s.rcur = s.cfg.preamble → (s.peekU16 (s.rcur + 4)).toNat < 2 →
    len = (s.peekU16 (s.rcur + 6)).toNat → 12 ≤ len → len ≤ s.unread →
    body = s.peekBytes (s.rcur + 8) (len - 12) →
    s.peekU32 (s.rcur + len - 4) = (crc16 body).setWidth 32 →
    ∃ t, exec .tryRead s = .next t ∧
      t = { s with
        rcur := (s.rcur + len) % s.cfg.capacity, latch := t.latch, draws := t.draws,
        responses := s.responses ++ [⟨.ok, s.peekU16 (s.rcur + 4), BitVec.ofNat 32 (len - 12), body⟩] }

/-- `43_frame_decoder.md` R160 to R162, the rejected frame: as the good frame but the checksum field differs
in some of its 32 bits. The whole frame is consumed, `REJ` is set, and the search goes on behind it. -/
def Obligations.RejectedFrameCostsTheWholeFrame : Prop :=
  ∀ (s : State) (len : Nat), s.Inv → s.rxq = [] →
    s.peekU32 s.rcur = s.cfg.preamble → (s.peekU16 (s.rcur + 4)).toNat < 2 →
    len = (s.peekU16 (s.rcur + 6)).toNat → 12 ≤ len → len ≤ s.unread →
    s.peekU32 (s.rcur + len - 4) ≠ (crc16 (s.peekBytes (s.rcur + 8) (len - 12))).setWidth 32 →
    exec .tryRead s =
      exec .tryRead { s with rcur := (s.rcur + len) % s.cfg.capacity, status := s.status ||| 0b010#3 }

/-- The two forms of TRY_READ agree: the run of the state machine of `43_frame_decoder.md` R165 and the one
function of R163, whose loop ends within `C - 8` passes (R164). -/
def Obligations.StateMachineAgreesWithTheOneFunction : Prop :=
  ∀ s : State, s.Inv → ∃ t r, s.tryReadWhole = some (t, r) ∧
    exec .tryRead s = .next (t.releaseLatch.respond r)

/-- `43_frame_decoder.md` R164: each pass of the loop that goes round again lowers the unread count, by
exactly 1 or by a whole frame of at least 12 bytes. -/
def Obligations.EveryPassLowersTheUnreadCount : Prop :=
  ∀ s t : State, s.Inv → s.searchPass = .again t →
    t.unread + 1 = s.unread ∨ ∃ n, 12 ≤ n ∧ t.unread + n = s.unread

/-- TRY_READ is a function of the byte stream alone: the response, the bytes consumed and the flags are
those of the search over the unread bytes followed by the drained ones, and what stays unread is the rest of
that stream. So it reads no byte outside the unread region (`43_frame_decoder.md` R163, R167 items 1, 2). -/
def Obligations.TryReadIsAFunctionOfTheByteStream : Prop :=
  ∀ s : State, s.Inv → ∃ t, exec .tryRead s = .next t ∧
    t.responses = s.responses ++ [(streamRead s.cfg s.stream).response] ∧
    t.rcur = (s.rcur + (streamRead s.cfg s.stream).consumed) % s.cfg.capacity ∧
    t.status = s.drain.status ||| (streamRead s.cfg s.stream).flags ∧
    (streamRead s.cfg s.stream).consumed ≤ s.stream.length ∧
    t.unreadBytes = s.stream.drop (streamRead s.cfg s.stream).consumed

/-- `43_frame_decoder.md` R167 item 4: a frame that is delivered was there, whole, with a matching checksum:
the bytes consumed last are the frame of the identifier and the body returned. -/
def Obligations.DeliveredFrameWasInTheStream : Prop :=
  ∀ (s t : State) (r : Response), s.Inv → exec .tryRead s = .next t → t.responses = s.responses ++ [r] →
    r.code = .ok → ∃ k,
      (s.stream.drop k).take (12 + r.data.length) = frame s.cfg r.id r.data ∧ r.id.toNat < 2 ∧
      r.val.toNat = r.data.length ∧ 12 + r.data.length < s.cfg.capacity ∧
      k + 12 + r.data.length ≤ s.stream.length ∧
      t.rcur = (s.rcur + k + 12 + r.data.length) % s.cfg.capacity

/-- `43_frame_decoder.md` R167 item 3, `70_reset_and_hazards.md` R245: TRY_READ ends without a frame only with
at most 8 bytes unread, or at a valid header whose frame is incomplete. -/
def Obligations.NoFrameOnlyWhenNothingIsDecodable : Prop :=
  ∀ s t : State, s.Inv → exec .tryRead s = .next t →
    t.responses = s.responses ++ [⟨.noFrame, 0#16, 0#32, []⟩] →
    t.unread ≤ 8 ∨
      (t.peekU32 t.rcur = t.cfg.preamble ∧ (t.peekU16 (t.rcur + 4)).toNat < 2 ∧
        12 ≤ (t.peekU16 (t.rcur + 6)).toNat ∧ (t.peekU16 (t.rcur + 6)).toNat < t.cfg.capacity ∧
        t.unread < (t.peekU16 (t.rcur + 6)).toNat)

/-- `43_frame_decoder.md` R167 item 5: a full buffer never stalls the decoder; it consumes at least one byte. -/
def Obligations.FullBufferNeverStalls : Prop :=
  ∀ s t : State, s.Inv → s.drain.unread = s.cfg.capacity - 1 → exec .tryRead s = .next t →
    t.unread < s.cfg.capacity - 1 ∧ t.rcur ≠ s.rcur

/-- `42_frame_encoder.md` R144: the frame of a catalog payload, arriving alone at an empty block, is decoded by
the next TRY_READ, whatever the cursors and the payload are. -/
def Obligations.RoundTripThroughEncodeAndTryRead : Prop :=
  ∀ (s e : State) (m : MessageId) (payload : List Byte), s.Inv → s.unread = 0 → s.rxq = [] →
    payload.length = s.cfg.payloadSize m → e.cfg = s.cfg →
    ∃ f e' t, exec (.encode m.number payload) e = .next e' ∧
      e'.responses = e.responses ++ [⟨.ok, 0#16, BitVec.ofNat 32 (12 + payload.length), f⟩] ∧
      exec .tryRead { s with rxq := f } = .next t ∧
      t.responses = s.responses ++ [⟨.ok, m.number, BitVec.ofNat 32 (s.cfg.payloadSize m), payload⟩] ∧
      t.unread = 0

/-- Two nodes, the link's behaviour a premise (`20_memory.md` R64): what SEND of one writes, arriving whole and
alone at the other, is delivered there, when they agree on the preamble and the frame is below the receiver's own
capacity (`00_scope.md` R8 item 3). The capacities may differ, and so may the catalog sizes, which the decoder
does not look at (`30_encoding.md` R87, `43_frame_decoder.md` R159, R163). -/
def Obligations.SentFrameIsDeliveredAtThePeer : Prop :=
  ∀ (a b : State) (m : MessageId) (payload : List Byte), b.Inv → a.cfg.wf →
    a.cfg.preamble = b.cfg.preamble → payload.length = a.cfg.payloadSize m →
    12 + payload.length < b.cfg.capacity → b.unread = 0 → b.rxq = [] →
    ∃ f a' b', exec (.send m.number payload) a = .next a' ∧ a'.txlog = a.txlog ++ [f] ∧
      exec .tryRead { b with rxq := f } = .next b' ∧
      b'.responses = b.responses ++ [⟨.ok, m.number, BitVec.ofNat 32 payload.length, payload⟩] ∧
      b'.unread = 0 ∧ b'.status = b.status

/-- `43_frame_decoder.md` R168: of two frames that arrive together, one TRY_READ returns the first and the
next TRY_READ the second. -/
def Obligations.TwoFramesTakeTwoReads : Prop :=
  ∀ (s : State) (m m' : MessageId) (p p' : List Byte), s.Inv → s.unread = 0 →
    s.rxq = frame s.cfg m.number p ++ frame s.cfg m'.number p' →
    24 + p.length + p'.length < s.cfg.capacity →
    ∃ t t', exec .tryRead s = .next t ∧
      t.responses = s.responses ++ [⟨.ok, m.number, BitVec.ofNat 32 p.length, p⟩] ∧
      exec .tryRead t = .next t' ∧
      t'.responses = t.responses ++ [⟨.ok, m'.number, BitVec.ofNat 32 p'.length, p'⟩] ∧
      t'.unread = 0

/-- `43_frame_decoder.md` R152, R158 (WTC's partial-delivery property): a frame that arrives in two parts is
not delivered before its last part; after the first, the read cursor and STATUS are unchanged; after the
second, exactly that frame is returned. -/
def Obligations.PartialDeliveryWaitsForTheWholeFrame : Prop :=
  ∀ (s : State) (m : MessageId) (payload first rest : List Byte), s.Inv → s.unread = 0 →
    12 + payload.length < s.cfg.capacity → first ++ rest = frame s.cfg m.number payload → rest ≠ [] →
    s.rxq = first →
    ∃ t t', exec .tryRead s = .next t ∧
      t.responses = s.responses ++ [⟨.noFrame, 0#16, 0#32, []⟩] ∧ t.rcur = s.rcur ∧ t.status = s.status ∧
      t.unread = first.length ∧
      exec .tryRead { t with rxq := rest } = .next t' ∧
      t'.responses = t.responses ++ [⟨.ok, m.number, BitVec.ofNat 32 payload.length, payload⟩] ∧
      t'.unread = 0

/-- WTC's corruption-rejection property (`43_frame_decoder.md` R161, R162): any single bit of the body or of
the checksum field changed makes TRY_READ consume the frame and return no message, with `REJ` set. -/
def Obligations.CorruptFrameIsConsumedAndRejected : Prop :=
  ∀ (s : State) (m : MessageId) (payload : List Byte) (i k : Nat), s.Inv → s.unread = 0 →
    12 + payload.length < s.cfg.capacity → 8 ≤ i → i < 12 + payload.length → k < 8 →
    s.rxq = flipBit (frame s.cfg m.number payload) i k →
    ∃ t, exec .tryRead s = .next t ∧
      t.responses = s.responses ++ [⟨.noFrame, 0#16, 0#32, []⟩] ∧
      t.rcur = (s.rcur + 12 + payload.length) % s.cfg.capacity ∧ t.unread = 0 ∧
      t.status = s.status ||| 0b010#3

/-- WTC's resynchronisation property (`43_frame_decoder.md` R153, R169), with the limit of
`70_reset_and_hazards.md` R244 as a premise (no earlier position of the stream shows the preamble): noise of
any content before a frame costs its own length and no more, and exactly that frame is returned. -/
def Obligations.NoiseBeforeAFrameIsSkipped : Prop :=
  ∀ (s : State) (m : MessageId) (noise payload : List Byte), s.Inv → s.unread = 0 →
    s.rxq = noise ++ frame s.cfg m.number payload →
    noise.length + 12 + payload.length < s.cfg.capacity →
    (∀ j, j < noise.length → (s.rxq.drop j).take 4 ≠ leBytes 4 s.cfg.preamble) →
    ∃ t, exec .tryRead s = .next t ∧
      t.responses = s.responses ++ [⟨.ok, m.number, BitVec.ofNat 32 payload.length, payload⟩] ∧
      t.rcur = (s.rcur + noise.length + 12 + payload.length) % s.cfg.capacity ∧ t.unread = 0 ∧
      t.status = if noise = [] then s.status else s.status ||| 0b100#3

/-! ## Frames of the operations -/

/-- The operations that store no byte: AVAIL, PEEK32, PEEKB, CHECKSUM, ENCODE, RD_STATUS and RD_CURSORS
write no state at all, ADVANCE writes `rcur` only, SEND `txlog` only, CLR_STATUS `STATUS` only; beside that
only the host's responses grow. -/
def Obligations.OperationsThatStoreNothingFrame : Prop :=
  ∀ (i : Instr) (s t : State), exec i s = .next t →
    (i.op ∈ [Op.avail, Op.peek32, Op.peekb, Op.checksum, Op.encode, Op.rdStatus, Op.rdCursors] →
      t = { s with responses := t.responses }) ∧
    (i.op = Op.advance → t = { s with rcur := t.rcur, responses := t.responses }) ∧
    (i.op = Op.send → t = { s with txlog := t.txlog, responses := t.responses }) ∧
    (i.op = Op.clrStatus → t = { s with status := t.status, responses := t.responses }) ∧
    (i.op ∉ [Op.push, Op.tryRead] → ∀ a, t.readByte a = s.readByte a)

/-- PUSH stores to the one byte at `wcur`, and only when not full; besides it writes `wcur`, or `STATUS.OVR`
when refused. No unread byte is overwritten (`40_ring_buffer.md` R113). -/
def Obligations.PushFrame : Prop :=
  ∀ (v : Byte) (s t : State), exec (.push v) s = .next t →
    t = { s with buf := t.buf, wcur := t.wcur, status := t.status, responses := t.responses } ∧
    t.rej = s.rej ∧ t.rsy = s.rsy ∧
    (∀ a, a ≠ s.wcur → t.readByte a = s.readByte a) ∧
    (s.full → ∀ a, t.readByte a = s.readByte a) ∧
    (s.Inv → ∀ i, s.inUnread i → t.readByte i = s.readByte i)

/-- TRY_READ stores to the bytes its drain moves and to no other, `buf[(wcur + j) mod C]` for `j` below the
drain's count; it writes `wcur`, `rcur`, `STATUS` (setting bits only), the latch, and takes bytes from `rxq`.
The configuration, `txlog` and the inputs are unchanged (`43_frame_decoder.md` R150, R151, R167). -/
def Obligations.TryReadFrame : Prop :=
  ∀ s t : State, s.Inv → exec .tryRead s = .next t →
    t = { s with
      buf := t.buf, wcur := (s.wcur + s.drainCount) % s.cfg.capacity, rcur := t.rcur, status := t.status,
      latch := t.latch, rxq := s.rxq.drop s.drainCount, responses := t.responses, draws := t.draws } ∧
    (∀ j, j < s.drainCount → s.rxq[j]? = some (t.readByte ((s.wcur + j) % s.cfg.capacity))) ∧
    (∀ a, (∀ j, j < s.drainCount → a ≠ (s.wcur + j) % s.cfg.capacity) → t.readByte a = s.readByte a) ∧
    t.ovr = (s.ovr || decide (s.cfg.capacity - 1 - s.unread < s.rxq.length)) ∧
    (s.rej = true → t.rej = true) ∧ (s.rsy = true → t.rsy = true)

/-! ## Rules of the whole machine -/

/-- Every step keeps the invariant, from every state that has it. -/
def Obligations.StepKeepsTheInvariant : Prop :=
  ∀ s t : State, s.Inv → step s = .next t → t.Inv

/-- Nothing is fatal (`60_exceptions.md` R206): with a configuration inside `00_scope.md` R8 and the other
facts of the invariant, every step goes on to a next state; only a configuration outside it is refused, by
name (`93_implementation_defined.md` U17; log entry 12). That a step on a refused command answers a next state is
the model's reading (log entry 10), and a step with nothing offered its form (log entry 8). -/
def Obligations.EveryStepGoesOnUnlessTheConfigurationIsInvalid : Prop :=
  ∀ s : State,
    (s.Inv → ∃ t, step s = .next t) ∧
    (¬ s.cfg.wf → step s = .refused .invalidConfiguration) ∧
    (s.cfg.wf → ∀ r, step s ≠ .refused r)

/-- Invariant I-unread of `10_state.md` R24: every byte of the unread region has been written by a push. Every
step keeps it, PUSH included, but for an ADVANCE beyond the unread region. -/
def Obligations.UnreadBytesStayWritten : Prop :=
  ∀ s t : State, s.Inv → s.UnreadWritten → s.advanceWithinUnread → step s = .next t → t.UnreadWritten

/-- `40_ring_buffer.md` R119, `10_state.md` R28: no step changes the capacity or any other parameter, or which
construction this is. -/
def Obligations.ConfigurationNeverChanges : Prop :=
  ∀ s t : State, step s = .next t → t.cfg = s.cfg ∧ t.powerUp = s.powerUp

/-- Who may write what (`10_state.md` R20 to R22, `20_memory.md` R50, R63): `buf` and `wcur` by PUSH and
TRY_READ, `rcur` by ADVANCE and TRY_READ, `STATUS` by PUSH, TRY_READ and CLR_STATUS, `txlog` by SEND, `rxq` by
TRY_READ, and no other operation. -/
def Obligations.EachRegisterHasItsWriters : Prop :=
  ∀ (i : Instr) (s t : State), exec i s = .next t →
    (t.buf ≠ s.buf ∨ t.wcur ≠ s.wcur → i.op ∈ [Op.push, Op.tryRead]) ∧
    (t.rcur ≠ s.rcur → i.op ∈ [Op.advance, Op.tryRead]) ∧
    (t.status ≠ s.status → i.op ∈ [Op.push, Op.tryRead, Op.clrStatus]) ∧
    (t.txlog ≠ s.txlog → i.op = Op.send) ∧
    (t.rxq ≠ s.rxq ∨ t.latch ≠ s.latch → i.op = Op.tryRead)

/-- `10_state.md` R27: a flag is cleared only by a CLR_STATUS whose mask names it. -/
def Obligations.FlagsAreStickyUntilCleared : Prop :=
  ∀ (i : Instr) (s t : State) (j : Nat), exec i s = .next t →
    s.status.getLsbD j = true → t.status.getLsbD j = false →
    ∃ mask, i = .clrStatus mask ∧ mask.getLsbD j = true

/-- `10_state.md` R27: the flags change no behaviour. Of two states that differ in STATUS only, every operation
but RD_STATUS makes two that differ in STATUS only. -/
def Obligations.FlagsChangeNoBehaviour : Prop :=
  ∀ (i : Instr) (s t : State) (x : BitVec 3), i ≠ .rdStatus → exec i s = .next t →
    ∃ y, exec i { s with status := x } = .next { t with status := y }

/-- `10_state.md` R25, R26: neither `fsm` nor the latch carries anything from one operation to the next. Where
`fsm` is not IDLE, which no run reaches between operations, it is the model's choice that TRY_READ starts at IDLE
all the same (log entry 14); the latch after TRY_READ is a free value (log entry 5). -/
def Obligations.LatchAndFsmCarryNothing : Prop :=
  ∀ (i : Instr) (s t : State) (l : Latch) (q : Fsm), exec i s = .next t →
    ∃ l' q', exec i { s with latch := l, fsm := q } = .next { t with latch := l', fsm := q' }

/-- `30_encoding.md` R96, R97: every command produces exactly one response; when its code is not OK it carries
nothing else; only the five codes 0 to 4 are produced. That a step on a refused command answers a next state is
the model's reading (log entry 10); the inputs and the list of responses are its form (log entries 8, 9). -/
def Obligations.EveryCommandHasExactlyOneResponse : Prop :=
  ∀ (s : State) (w : CmdWord) (din : List Byte) (rest : List Input), s.Inv →
    s.inputs = .command w din :: rest →
    ∃ t r, step s = .next t ∧ t.responses = s.responses ++ [r] ∧
      (r.code ≠ .ok → r.id = 0#16 ∧ r.val = 0#32 ∧ r.data = []) ∧ r.code.number.toNat ≤ 4

/-- `40_ring_buffer.md` R118 law 6: moving both cursors and every position operand by the same amount around
the ring, with the bytes, changes no response (but RD_CURSORS', whose result is a pair of positions). -/
def Obligations.PositionIndependence : Prop :=
  ∀ (d : Nat) (i : Instr) (s t s' : State), s.Inv → t.Inv → Rotated d s t →
    i.wellFormed s.cfg = true → exec i s = .next s' →
    ∃ t', exec (shiftPosition s.cfg d i) t = .next t' ∧ Rotated d s' t' ∧
      (i ≠ .rdCursors → ∃ r, s'.responses = s.responses ++ [r] ∧ t'.responses = t.responses ++ [r])

/-! ## Laws of the ring -/

/-- `40_ring_buffer.md` R118 laws 2 to 5, and R112: full means that one more push would make the write cursor
meet the read cursor. -/
def Obligations.LawsOfTheCursorArithmetic : Prop :=
  ∀ s : State, s.Inv →
    (∀ p, p < s.cfg.capacity →
      (s.availableFrom p : Int) = ((s.wcur : Int) - p) % s.cfg.capacity ∧ s.availableFrom p < s.cfg.capacity) ∧
    (∀ v p, p < s.cfg.capacity → p ≠ (s.storeByte v).wcur →
      (s.storeByte v).availableFrom p = s.availableFrom p + 1) ∧
    (∀ v, (s.storeByte v).availableFrom (s.storeByte v).wcur = 0 ∧
      s.availableFrom (s.storeByte v).wcur = s.cfg.capacity - 1) ∧
    (∀ n, n ≤ s.unread → (s.advanceRead n).unread + n = s.unread) ∧
    (∀ n m, (s.advanceRead n).advanceRead m = s.advanceRead (n + m)) ∧
    s.advanceRead s.cfg.capacity = s ∧
    (s.full ↔ (s.wcur + 1) % s.cfg.capacity = s.rcur)

/-- `20_memory.md` R52: a 2-byte or 4-byte read is the little-endian sum of its bytes, wrapping at `C`, and
`MemRead(p, 4) = MemRead(p, 2) + MemRead(p + 2, 2) * 65536`. -/
def Obligations.ReadsAreLittleEndianAndWrap : Prop :=
  ∀ (s : State) (p : Nat),
    (∀ n, s.memRead p n =
      ((List.range n).map fun k => (s.readByte ((p + k) % s.cfg.capacity)).toNat * 2 ^ (8 * k)).sum) ∧
    s.memRead p 4 = s.memRead p 2 + s.memRead (p + 2) 2 * 65536
end

