-- ==== Sys2Proof/Laws/State.lean ====
section
/-! SUPPORT. One lemma per field for each operation that updates the state, and for construction. -/

namespace Sys2Proof.Machine

variable (s : State)

/-! ### `State.respond` -/

@[simp] theorem State.respond_cfg (r : Response) : (s.respond r).cfg = s.cfg := rfl
@[simp] theorem State.respond_buf (r : Response) : (s.respond r).buf = s.buf := rfl
@[simp] theorem State.respond_wcur (r : Response) : (s.respond r).wcur = s.wcur := rfl
@[simp] theorem State.respond_rcur (r : Response) : (s.respond r).rcur = s.rcur := rfl
@[simp] theorem State.respond_status (r : Response) : (s.respond r).status = s.status := rfl
@[simp] theorem State.respond_fsm (r : Response) : (s.respond r).fsm = s.fsm := rfl
@[simp] theorem State.respond_latch (r : Response) : (s.respond r).latch = s.latch := rfl
@[simp] theorem State.respond_rxq (r : Response) : (s.respond r).rxq = s.rxq := rfl
@[simp] theorem State.respond_txlog (r : Response) : (s.respond r).txlog = s.txlog := rfl
@[simp] theorem State.respond_inputs (r : Response) : (s.respond r).inputs = s.inputs := rfl
@[simp] theorem State.respond_responses (r : Response) : (s.respond r).responses = s.responses ++ [r] := rfl
@[simp] theorem State.respond_powerUp (r : Response) : (s.respond r).powerUp = s.powerUp := rfl
@[simp] theorem State.respond_draws (r : Response) : (s.respond r).draws = s.draws := rfl

/-! ### `State.raise` -/

@[simp] theorem State.raise_cfg (e : Event) : (s.raise e).cfg = s.cfg := rfl
@[simp] theorem State.raise_buf (e : Event) : (s.raise e).buf = s.buf := rfl
@[simp] theorem State.raise_wcur (e : Event) : (s.raise e).wcur = s.wcur := rfl
@[simp] theorem State.raise_rcur (e : Event) : (s.raise e).rcur = s.rcur := rfl
@[simp] theorem State.raise_status (e : Event) : (s.raise e).status = s.status ||| e.bit := rfl
@[simp] theorem State.raise_fsm (e : Event) : (s.raise e).fsm = s.fsm := rfl
@[simp] theorem State.raise_latch (e : Event) : (s.raise e).latch = s.latch := rfl
@[simp] theorem State.raise_rxq (e : Event) : (s.raise e).rxq = s.rxq := rfl
@[simp] theorem State.raise_txlog (e : Event) : (s.raise e).txlog = s.txlog := rfl
@[simp] theorem State.raise_inputs (e : Event) : (s.raise e).inputs = s.inputs := rfl
@[simp] theorem State.raise_responses (e : Event) : (s.raise e).responses = s.responses := rfl
@[simp] theorem State.raise_powerUp (e : Event) : (s.raise e).powerUp = s.powerUp := rfl
@[simp] theorem State.raise_draws (e : Event) : (s.raise e).draws = s.draws := rfl

/-! ### `State.setRxq` -/

@[simp] theorem State.setRxq_cfg (q : List Byte) : (s.setRxq q).cfg = s.cfg := rfl
@[simp] theorem State.setRxq_buf (q : List Byte) : (s.setRxq q).buf = s.buf := rfl
@[simp] theorem State.setRxq_wcur (q : List Byte) : (s.setRxq q).wcur = s.wcur := rfl
@[simp] theorem State.setRxq_rcur (q : List Byte) : (s.setRxq q).rcur = s.rcur := rfl
@[simp] theorem State.setRxq_status (q : List Byte) : (s.setRxq q).status = s.status := rfl
@[simp] theorem State.setRxq_fsm (q : List Byte) : (s.setRxq q).fsm = s.fsm := rfl
@[simp] theorem State.setRxq_latch (q : List Byte) : (s.setRxq q).latch = s.latch := rfl
@[simp] theorem State.setRxq_rxq (q : List Byte) : (s.setRxq q).rxq = q := rfl
@[simp] theorem State.setRxq_txlog (q : List Byte) : (s.setRxq q).txlog = s.txlog := rfl
@[simp] theorem State.setRxq_inputs (q : List Byte) : (s.setRxq q).inputs = s.inputs := rfl
@[simp] theorem State.setRxq_responses (q : List Byte) : (s.setRxq q).responses = s.responses := rfl
@[simp] theorem State.setRxq_powerUp (q : List Byte) : (s.setRxq q).powerUp = s.powerUp := rfl
@[simp] theorem State.setRxq_draws (q : List Byte) : (s.setRxq q).draws = s.draws := rfl

/-! ### `State.arrive` -/

@[simp] theorem State.arrive_cfg (b : List Byte) : (s.arrive b).cfg = s.cfg := rfl
@[simp] theorem State.arrive_buf (b : List Byte) : (s.arrive b).buf = s.buf := rfl
@[simp] theorem State.arrive_wcur (b : List Byte) : (s.arrive b).wcur = s.wcur := rfl
@[simp] theorem State.arrive_rcur (b : List Byte) : (s.arrive b).rcur = s.rcur := rfl
@[simp] theorem State.arrive_status (b : List Byte) : (s.arrive b).status = s.status := rfl
@[simp] theorem State.arrive_fsm (b : List Byte) : (s.arrive b).fsm = s.fsm := rfl
@[simp] theorem State.arrive_latch (b : List Byte) : (s.arrive b).latch = s.latch := rfl
@[simp] theorem State.arrive_rxq (b : List Byte) : (s.arrive b).rxq = s.rxq ++ b := rfl
@[simp] theorem State.arrive_txlog (b : List Byte) : (s.arrive b).txlog = s.txlog := rfl
@[simp] theorem State.arrive_inputs (b : List Byte) : (s.arrive b).inputs = s.inputs := rfl
@[simp] theorem State.arrive_responses (b : List Byte) : (s.arrive b).responses = s.responses := rfl
@[simp] theorem State.arrive_powerUp (b : List Byte) : (s.arrive b).powerUp = s.powerUp := rfl
@[simp] theorem State.arrive_draws (b : List Byte) : (s.arrive b).draws = s.draws := rfl

/-! ### `State.transportWrite` -/

@[simp] theorem State.transportWrite_cfg (f : List Byte) : (s.transportWrite f).cfg = s.cfg := rfl
@[simp] theorem State.transportWrite_buf (f : List Byte) : (s.transportWrite f).buf = s.buf := rfl
@[simp] theorem State.transportWrite_wcur (f : List Byte) : (s.transportWrite f).wcur = s.wcur := rfl
@[simp] theorem State.transportWrite_rcur (f : List Byte) : (s.transportWrite f).rcur = s.rcur := rfl
@[simp] theorem State.transportWrite_status (f : List Byte) : (s.transportWrite f).status = s.status := rfl
@[simp] theorem State.transportWrite_fsm (f : List Byte) : (s.transportWrite f).fsm = s.fsm := rfl
@[simp] theorem State.transportWrite_latch (f : List Byte) : (s.transportWrite f).latch = s.latch := rfl
@[simp] theorem State.transportWrite_rxq (f : List Byte) : (s.transportWrite f).rxq = s.rxq := rfl
@[simp] theorem State.transportWrite_txlog (f : List Byte) : (s.transportWrite f).txlog = s.txlog ++ [f] := rfl
@[simp] theorem State.transportWrite_inputs (f : List Byte) : (s.transportWrite f).inputs = s.inputs := rfl
@[simp] theorem State.transportWrite_responses (f : List Byte) : (s.transportWrite f).responses = s.responses := rfl
@[simp] theorem State.transportWrite_powerUp (f : List Byte) : (s.transportWrite f).powerUp = s.powerUp := rfl
@[simp] theorem State.transportWrite_draws (f : List Byte) : (s.transportWrite f).draws = s.draws := rfl

/-! ### `State.advanceRead` -/

@[simp] theorem State.advanceRead_cfg (n : Nat) : (s.advanceRead n).cfg = s.cfg := rfl
@[simp] theorem State.advanceRead_buf (n : Nat) : (s.advanceRead n).buf = s.buf := rfl
@[simp] theorem State.advanceRead_wcur (n : Nat) : (s.advanceRead n).wcur = s.wcur := rfl
@[simp] theorem State.advanceRead_rcur (n : Nat) : (s.advanceRead n).rcur = (s.rcur + n) % s.cfg.capacity := rfl
@[simp] theorem State.advanceRead_status (n : Nat) : (s.advanceRead n).status = s.status := rfl
@[simp] theorem State.advanceRead_fsm (n : Nat) : (s.advanceRead n).fsm = s.fsm := rfl
@[simp] theorem State.advanceRead_latch (n : Nat) : (s.advanceRead n).latch = s.latch := rfl
@[simp] theorem State.advanceRead_rxq (n : Nat) : (s.advanceRead n).rxq = s.rxq := rfl
@[simp] theorem State.advanceRead_txlog (n : Nat) : (s.advanceRead n).txlog = s.txlog := rfl
@[simp] theorem State.advanceRead_inputs (n : Nat) : (s.advanceRead n).inputs = s.inputs := rfl
@[simp] theorem State.advanceRead_responses (n : Nat) : (s.advanceRead n).responses = s.responses := rfl
@[simp] theorem State.advanceRead_powerUp (n : Nat) : (s.advanceRead n).powerUp = s.powerUp := rfl
@[simp] theorem State.advanceRead_draws (n : Nat) : (s.advanceRead n).draws = s.draws := rfl

/-! ### `State.storeByte` -/

@[simp] theorem State.storeByte_cfg (v : Byte) : (s.storeByte v).cfg = s.cfg := rfl
@[simp] theorem State.storeByte_buf (v : Byte) : (s.storeByte v).buf = s.buf.write s.wcur v := rfl
@[simp] theorem State.storeByte_wcur (v : Byte) : (s.storeByte v).wcur = (s.wcur + 1) % s.cfg.capacity := rfl
@[simp] theorem State.storeByte_rcur (v : Byte) : (s.storeByte v).rcur = s.rcur := rfl
@[simp] theorem State.storeByte_status (v : Byte) : (s.storeByte v).status = s.status := rfl
@[simp] theorem State.storeByte_fsm (v : Byte) : (s.storeByte v).fsm = s.fsm := rfl
@[simp] theorem State.storeByte_latch (v : Byte) : (s.storeByte v).latch = s.latch := rfl
@[simp] theorem State.storeByte_rxq (v : Byte) : (s.storeByte v).rxq = s.rxq := rfl
@[simp] theorem State.storeByte_txlog (v : Byte) : (s.storeByte v).txlog = s.txlog := rfl
@[simp] theorem State.storeByte_inputs (v : Byte) : (s.storeByte v).inputs = s.inputs := rfl
@[simp] theorem State.storeByte_responses (v : Byte) : (s.storeByte v).responses = s.responses := rfl
@[simp] theorem State.storeByte_powerUp (v : Byte) : (s.storeByte v).powerUp = s.powerUp := rfl
@[simp] theorem State.storeByte_draws (v : Byte) : (s.storeByte v).draws = s.draws := rfl

/-! ### `State.setFsm` -/

@[simp] theorem State.setFsm_cfg (q : Fsm) : (s.setFsm q).cfg = s.cfg := rfl
@[simp] theorem State.setFsm_buf (q : Fsm) : (s.setFsm q).buf = s.buf := rfl
@[simp] theorem State.setFsm_wcur (q : Fsm) : (s.setFsm q).wcur = s.wcur := rfl
@[simp] theorem State.setFsm_rcur (q : Fsm) : (s.setFsm q).rcur = s.rcur := rfl
@[simp] theorem State.setFsm_status (q : Fsm) : (s.setFsm q).status = s.status := rfl
@[simp] theorem State.setFsm_fsm (q : Fsm) : (s.setFsm q).fsm = q := rfl
@[simp] theorem State.setFsm_latch (q : Fsm) : (s.setFsm q).latch = s.latch := rfl
@[simp] theorem State.setFsm_rxq (q : Fsm) : (s.setFsm q).rxq = s.rxq := rfl
@[simp] theorem State.setFsm_txlog (q : Fsm) : (s.setFsm q).txlog = s.txlog := rfl
@[simp] theorem State.setFsm_inputs (q : Fsm) : (s.setFsm q).inputs = s.inputs := rfl
@[simp] theorem State.setFsm_responses (q : Fsm) : (s.setFsm q).responses = s.responses := rfl
@[simp] theorem State.setFsm_powerUp (q : Fsm) : (s.setFsm q).powerUp = s.powerUp := rfl
@[simp] theorem State.setFsm_draws (q : Fsm) : (s.setFsm q).draws = s.draws := rfl

/-! ### `State.setLatch` -/

@[simp] theorem State.setLatch_cfg (l : Latch) : (s.setLatch l).cfg = s.cfg := rfl
@[simp] theorem State.setLatch_buf (l : Latch) : (s.setLatch l).buf = s.buf := rfl
@[simp] theorem State.setLatch_wcur (l : Latch) : (s.setLatch l).wcur = s.wcur := rfl
@[simp] theorem State.setLatch_rcur (l : Latch) : (s.setLatch l).rcur = s.rcur := rfl
@[simp] theorem State.setLatch_status (l : Latch) : (s.setLatch l).status = s.status := rfl
@[simp] theorem State.setLatch_fsm (l : Latch) : (s.setLatch l).fsm = s.fsm := rfl
@[simp] theorem State.setLatch_latch (l : Latch) : (s.setLatch l).latch = l := rfl
@[simp] theorem State.setLatch_rxq (l : Latch) : (s.setLatch l).rxq = s.rxq := rfl
@[simp] theorem State.setLatch_txlog (l : Latch) : (s.setLatch l).txlog = s.txlog := rfl
@[simp] theorem State.setLatch_inputs (l : Latch) : (s.setLatch l).inputs = s.inputs := rfl
@[simp] theorem State.setLatch_responses (l : Latch) : (s.setLatch l).responses = s.responses := rfl
@[simp] theorem State.setLatch_powerUp (l : Latch) : (s.setLatch l).powerUp = s.powerUp := rfl
@[simp] theorem State.setLatch_draws (l : Latch) : (s.setLatch l).draws = s.draws := rfl

/-! ### `State.releaseLatch` -/

@[simp] theorem State.releaseLatch_cfg : s.releaseLatch.cfg = s.cfg := rfl
@[simp] theorem State.releaseLatch_buf : s.releaseLatch.buf = s.buf := rfl
@[simp] theorem State.releaseLatch_wcur : s.releaseLatch.wcur = s.wcur := rfl
@[simp] theorem State.releaseLatch_rcur : s.releaseLatch.rcur = s.rcur := rfl
@[simp] theorem State.releaseLatch_status : s.releaseLatch.status = s.status := rfl
@[simp] theorem State.releaseLatch_fsm : s.releaseLatch.fsm = s.fsm := rfl
@[simp] theorem State.releaseLatch_latch : s.releaseLatch.latch = latchWithin s.cfg (Config.unspecifiedLatch s.powerUp s.draws) := rfl
@[simp] theorem State.releaseLatch_rxq : s.releaseLatch.rxq = s.rxq := rfl
@[simp] theorem State.releaseLatch_txlog : s.releaseLatch.txlog = s.txlog := rfl
@[simp] theorem State.releaseLatch_inputs : s.releaseLatch.inputs = s.inputs := rfl
@[simp] theorem State.releaseLatch_responses : s.releaseLatch.responses = s.responses := rfl
@[simp] theorem State.releaseLatch_powerUp : s.releaseLatch.powerUp = s.powerUp := rfl
@[simp] theorem State.releaseLatch_draws : s.releaseLatch.draws = s.draws + 1 := rfl

/-! ### `State.clearFlags` -/

@[simp] theorem State.clearFlags_cfg (m : BitVec 3) : (s.clearFlags m).cfg = s.cfg := rfl
@[simp] theorem State.clearFlags_buf (m : BitVec 3) : (s.clearFlags m).buf = s.buf := rfl
@[simp] theorem State.clearFlags_wcur (m : BitVec 3) : (s.clearFlags m).wcur = s.wcur := rfl
@[simp] theorem State.clearFlags_rcur (m : BitVec 3) : (s.clearFlags m).rcur = s.rcur := rfl
@[simp] theorem State.clearFlags_status (m : BitVec 3) : (s.clearFlags m).status = s.status &&& ~~~m := rfl
@[simp] theorem State.clearFlags_fsm (m : BitVec 3) : (s.clearFlags m).fsm = s.fsm := rfl
@[simp] theorem State.clearFlags_latch (m : BitVec 3) : (s.clearFlags m).latch = s.latch := rfl
@[simp] theorem State.clearFlags_rxq (m : BitVec 3) : (s.clearFlags m).rxq = s.rxq := rfl
@[simp] theorem State.clearFlags_txlog (m : BitVec 3) : (s.clearFlags m).txlog = s.txlog := rfl
@[simp] theorem State.clearFlags_inputs (m : BitVec 3) : (s.clearFlags m).inputs = s.inputs := rfl
@[simp] theorem State.clearFlags_responses (m : BitVec 3) : (s.clearFlags m).responses = s.responses := rfl
@[simp] theorem State.clearFlags_powerUp (m : BitVec 3) : (s.clearFlags m).powerUp = s.powerUp := rfl
@[simp] theorem State.clearFlags_draws (m : BitVec 3) : (s.clearFlags m).draws = s.draws := rfl

/-! ### `State.resync` -/

@[simp] theorem State.resync_cfg : s.resync.cfg = s.cfg := rfl
@[simp] theorem State.resync_buf : s.resync.buf = s.buf := rfl
@[simp] theorem State.resync_wcur : s.resync.wcur = s.wcur := rfl
@[simp] theorem State.resync_rcur : s.resync.rcur = (s.rcur + 1) % s.cfg.capacity := rfl
@[simp] theorem State.resync_status : s.resync.status = s.status ||| Event.syncLoss.bit := rfl
@[simp] theorem State.resync_fsm : s.resync.fsm = s.fsm := rfl
@[simp] theorem State.resync_latch : s.resync.latch = s.latch := rfl
@[simp] theorem State.resync_rxq : s.resync.rxq = s.rxq := rfl
@[simp] theorem State.resync_txlog : s.resync.txlog = s.txlog := rfl
@[simp] theorem State.resync_inputs : s.resync.inputs = s.inputs := rfl
@[simp] theorem State.resync_responses : s.resync.responses = s.responses := rfl
@[simp] theorem State.resync_powerUp : s.resync.powerUp = s.powerUp := rfl
@[simp] theorem State.resync_draws : s.resync.draws = s.draws := rfl

/-! ### `State.refuseOperand` -/

@[simp] theorem State.refuseOperand_cfg : s.refuseOperand.cfg = s.cfg := rfl
@[simp] theorem State.refuseOperand_buf : s.refuseOperand.buf = s.buf := rfl
@[simp] theorem State.refuseOperand_wcur : s.refuseOperand.wcur = s.wcur := rfl
@[simp] theorem State.refuseOperand_rcur : s.refuseOperand.rcur = s.rcur := rfl
@[simp] theorem State.refuseOperand_status : s.refuseOperand.status = s.status := rfl
@[simp] theorem State.refuseOperand_fsm : s.refuseOperand.fsm = s.fsm := rfl
@[simp] theorem State.refuseOperand_latch : s.refuseOperand.latch = s.latch := rfl
@[simp] theorem State.refuseOperand_rxq : s.refuseOperand.rxq = s.rxq := rfl
@[simp] theorem State.refuseOperand_txlog : s.refuseOperand.txlog = s.txlog := rfl
@[simp] theorem State.refuseOperand_inputs : s.refuseOperand.inputs = s.inputs := rfl
@[simp] theorem State.refuseOperand_responses : s.refuseOperand.responses = s.responses ++ [Response.bare .badOperand] := rfl
@[simp] theorem State.refuseOperand_powerUp : s.refuseOperand.powerUp = s.powerUp := rfl
@[simp] theorem State.refuseOperand_draws : s.refuseOperand.draws = s.draws := rfl

/-! ### `State.refuseCommand` -/

@[simp] theorem State.refuseCommand_cfg : s.refuseCommand.cfg = s.cfg := rfl
@[simp] theorem State.refuseCommand_buf : s.refuseCommand.buf = s.buf := rfl
@[simp] theorem State.refuseCommand_wcur : s.refuseCommand.wcur = s.wcur := rfl
@[simp] theorem State.refuseCommand_rcur : s.refuseCommand.rcur = s.rcur := rfl
@[simp] theorem State.refuseCommand_status : s.refuseCommand.status = s.status := rfl
@[simp] theorem State.refuseCommand_fsm : s.refuseCommand.fsm = s.fsm := rfl
@[simp] theorem State.refuseCommand_latch : s.refuseCommand.latch = s.latch := rfl
@[simp] theorem State.refuseCommand_rxq : s.refuseCommand.rxq = s.rxq := rfl
@[simp] theorem State.refuseCommand_txlog : s.refuseCommand.txlog = s.txlog := rfl
@[simp] theorem State.refuseCommand_inputs : s.refuseCommand.inputs = s.inputs := rfl
@[simp] theorem State.refuseCommand_responses : s.refuseCommand.responses = s.responses ++ [Response.bare .badCmd] := rfl
@[simp] theorem State.refuseCommand_powerUp : s.refuseCommand.powerUp = s.powerUp := rfl
@[simp] theorem State.refuseCommand_draws : s.refuseCommand.draws = s.draws := rfl

/-! ### `State.dropInput` -/

@[simp] theorem State.dropInput_cfg : s.dropInput.cfg = s.cfg := rfl
@[simp] theorem State.dropInput_buf : s.dropInput.buf = s.buf := rfl
@[simp] theorem State.dropInput_wcur : s.dropInput.wcur = s.wcur := rfl
@[simp] theorem State.dropInput_rcur : s.dropInput.rcur = s.rcur := rfl
@[simp] theorem State.dropInput_status : s.dropInput.status = s.status := rfl
@[simp] theorem State.dropInput_fsm : s.dropInput.fsm = s.fsm := rfl
@[simp] theorem State.dropInput_latch : s.dropInput.latch = s.latch := rfl
@[simp] theorem State.dropInput_rxq : s.dropInput.rxq = s.rxq := rfl
@[simp] theorem State.dropInput_txlog : s.dropInput.txlog = s.txlog := rfl
@[simp] theorem State.dropInput_inputs : s.dropInput.inputs = s.inputs.tail := rfl
@[simp] theorem State.dropInput_responses : s.dropInput.responses = s.responses := rfl
@[simp] theorem State.dropInput_powerUp : s.dropInput.powerUp = s.powerUp := rfl
@[simp] theorem State.dropInput_draws : s.dropInput.draws = s.draws := rfl

/-! ### `State.offerCommand` -/

@[simp] theorem State.offerCommand_cfg (w : CmdWord) (d : List Byte) : (s.offerCommand w d).cfg = s.cfg := rfl
@[simp] theorem State.offerCommand_buf (w : CmdWord) (d : List Byte) : (s.offerCommand w d).buf = s.buf := rfl
@[simp] theorem State.offerCommand_wcur (w : CmdWord) (d : List Byte) : (s.offerCommand w d).wcur = s.wcur := rfl
@[simp] theorem State.offerCommand_rcur (w : CmdWord) (d : List Byte) : (s.offerCommand w d).rcur = s.rcur := rfl
@[simp] theorem State.offerCommand_status (w : CmdWord) (d : List Byte) : (s.offerCommand w d).status = s.status := rfl
@[simp] theorem State.offerCommand_fsm (w : CmdWord) (d : List Byte) : (s.offerCommand w d).fsm = s.fsm := rfl
@[simp] theorem State.offerCommand_latch (w : CmdWord) (d : List Byte) : (s.offerCommand w d).latch = s.latch := rfl
@[simp] theorem State.offerCommand_rxq (w : CmdWord) (d : List Byte) : (s.offerCommand w d).rxq = s.rxq := rfl
@[simp] theorem State.offerCommand_txlog (w : CmdWord) (d : List Byte) : (s.offerCommand w d).txlog = s.txlog := rfl
@[simp] theorem State.offerCommand_inputs (w : CmdWord) (d : List Byte) : (s.offerCommand w d).inputs = .command w d :: s.inputs := rfl
@[simp] theorem State.offerCommand_responses (w : CmdWord) (d : List Byte) : (s.offerCommand w d).responses = s.responses := rfl
@[simp] theorem State.offerCommand_powerUp (w : CmdWord) (d : List Byte) : (s.offerCommand w d).powerUp = s.powerUp := rfl
@[simp] theorem State.offerCommand_draws (w : CmdWord) (d : List Byte) : (s.offerCommand w d).draws = s.draws := rfl

/-! ### `State.construct` -/

@[simp] theorem State.construct_cfg (c : Config) (p : Nat) : (State.construct c p).cfg = c := rfl
@[simp] theorem State.construct_buf (c : Config) (p : Nat) : (State.construct c p).buf = [] := rfl
@[simp] theorem State.construct_wcur (c : Config) (p : Nat) : (State.construct c p).wcur = 0 := rfl
@[simp] theorem State.construct_rcur (c : Config) (p : Nat) : (State.construct c p).rcur = 0 := rfl
@[simp] theorem State.construct_status (c : Config) (p : Nat) : (State.construct c p).status = 0#3 := rfl
@[simp] theorem State.construct_fsm (c : Config) (p : Nat) : (State.construct c p).fsm = .idle := rfl
@[simp] theorem State.construct_rxq (c : Config) (p : Nat) : (State.construct c p).rxq = [] := rfl
@[simp] theorem State.construct_txlog (c : Config) (p : Nat) : (State.construct c p).txlog = [] := rfl
@[simp] theorem State.construct_inputs (c : Config) (p : Nat) : (State.construct c p).inputs = [] := rfl
@[simp] theorem State.construct_responses (c : Config) (p : Nat) : (State.construct c p).responses = [] := rfl
@[simp] theorem State.construct_powerUp (c : Config) (p : Nat) : (State.construct c p).powerUp = p := rfl
@[simp] theorem State.construct_draws (c : Config) (p : Nat) : (State.construct c p).draws = 0 := rfl

end Sys2Proof.Machine
end

