-- ==== Sys2Proof/Laws/Ring.lean ====
section
/-! SUPPORT. The arithmetic of the ring (`40_ring_buffer.md` R118) and the reads of ring storage. -/

namespace Sys2Proof.Machine

/-! ## `available_from` -/

/-- `available_from` looks at `wcur` and `C` only. -/
theorem State.availableFrom_congr {s t : State} (hw : t.wcur = s.wcur) (hc : t.cfg.capacity = s.cfg.capacity)
    (p : Nat) : t.availableFrom p = s.availableFrom p := by
  simp [State.availableFrom, hw, hc]

/-- A cursor moved by at most a whole turn, without the remainder. -/
theorem mod_add_cases {a n c : Nat} (ha : a < c) (hn : n ≤ c) :
    (a + n) % c = if a + n < c then a + n else a + n - c := by
  split
  · rename_i h; exact Nat.mod_eq_of_lt h
  · rename_i h
    rw [Nat.mod_eq_sub_mod (by omega), Nat.mod_eq_of_lt (by omega)]

theorem ringCount_lt {c w p : Nat} (hw : w < c) (hp : p < c) : ringCount c w p < c := by
  unfold ringCount; split <;> omega

theorem ringCount_eq_mod {c w p : Nat} (hw : w < c) (hp : p < c) : ringCount c w p = (c + w - p) % c := by
  rw [show c + w - p = (c - p) + w by omega, Nat.add_comm]
  rw [mod_add_cases hw (by omega)]
  unfold ringCount
  split <;> split <;> omega

theorem add_ringCount {c w p : Nat} (hw : w < c) (hp : p < c) : (p + ringCount c w p) % c = w := by
  have h := ringCount_lt hw hp
  rw [mod_add_cases hp (by omega)]
  unfold ringCount at *
  split <;> split <;> omega

/-- A distance in the ring determines the write cursor it ends at. -/
theorem ringCount_of_add {c p k : Nat} (hp : p < c) (hk : k < c) : ringCount c ((p + k) % c) p = k := by
  rw [mod_add_cases hp (by omega)]
  unfold ringCount
  split <;> split <;> omega

theorem ringCount_advance {c w p n : Nat} (hw : w < c) (hp : p < c) (hn : n ≤ ringCount c w p) :
    ringCount c w ((p + n) % c) + n = ringCount c w p := by
  have h := ringCount_lt hw hp
  rw [mod_add_cases hp (by omega)]
  unfold ringCount at *
  split at hn <;> split <;> split <;> omega

theorem ringCount_push {c w p : Nat} (hw : w < c) (hp : p < c) (hf : ringCount c w p ≠ c - 1) :
    ringCount c ((w + 1) % c) p = ringCount c w p + 1 := by
  rw [mod_add_cases hw (by omega)]
  unfold ringCount at *
  split at hf <;> split <;> split <;> omega

theorem State.availableFrom_lt {s : State} {p : Nat} (hw : s.wcur < s.cfg.capacity) (hp : p < s.cfg.capacity) :
    s.availableFrom p < s.cfg.capacity := ringCount_lt hw hp

/-- `available_from(pos) = (wcur - pos) mod C`, on naturals (`40_ring_buffer.md` R118 law 2). -/
theorem State.availableFrom_eq_mod {s : State} {p : Nat} (hw : s.wcur < s.cfg.capacity)
    (hp : p < s.cfg.capacity) : s.availableFrom p = (s.cfg.capacity + s.wcur - p) % s.cfg.capacity :=
  ringCount_eq_mod hw hp

/-- The bytes counted from `p` end at the write cursor. -/
theorem State.add_availableFrom {s : State} {p : Nat} (hw : s.wcur < s.cfg.capacity)
    (hp : p < s.cfg.capacity) : (p + s.availableFrom p) % s.cfg.capacity = s.wcur := add_ringCount hw hp

/-- `advance_read(n)` with `n` within the unread region lowers the count by `n` (R118 law 4). -/
theorem State.unread_advanceRead {s : State} {n : Nat} (hw : s.wcur < s.cfg.capacity)
    (hr : s.rcur < s.cfg.capacity) (hn : n ≤ s.unread) : (s.advanceRead n).unread + n = s.unread :=
  ringCount_advance hw hr hn

/-- A push that is not refused raises the unread count by 1 (R118 law 3). -/
theorem State.unread_storeByte {s : State} (v : Byte) (hw : s.wcur < s.cfg.capacity)
    (hr : s.rcur < s.cfg.capacity) (hf : ¬ s.full) : (s.storeByte v).unread = s.unread + 1 :=
  ringCount_push hw hr hf

/-! ## Reads -/

/-- A read of a byte looks at `buf` and at which construction this is. -/
theorem State.readByte_congr {s t : State} (hb : t.buf = s.buf) (hp : t.powerUp = s.powerUp) (i : Nat) :
    t.readByte i = s.readByte i := by
  simp [State.readByte, hb, hp]

theorem State.readByte_of_read? {s : State} {i : Nat} {v : Byte} (h : s.buf.read? i = some v) :
    s.readByte i = v := by
  simp [State.readByte, h]

theorem State.readByte_storeByte (s : State) (v : Byte) (i : Nat) :
    (s.storeByte v).readByte i = if i = s.wcur then v else s.readByte i := by
  simp only [State.readByte, State.storeByte_buf, State.storeByte_powerUp, Memory.read?_write]
  split <;> rfl

@[simp] theorem State.peekBytes_length (s : State) (p n : Nat) : (s.peekBytes p n).length = n := by
  simp [State.peekBytes]

theorem State.peekBytes_getElem (s : State) (p n k : Nat) (h : k < (s.peekBytes p n).length) :
    (s.peekBytes p n)[k] = s.readByte ((p + k) % s.cfg.capacity) := by
  simp [State.peekBytes]

theorem State.peekBytes_congr {s t : State} (hb : t.buf = s.buf) (hp : t.powerUp = s.powerUp)
    (hc : t.cfg = s.cfg) (p n : Nat) : t.peekBytes p n = s.peekBytes p n := by
  simp [State.peekBytes, State.readByte_congr hb hp, hc]

theorem State.peekU32_congr {s t : State} (hb : t.buf = s.buf) (hp : t.powerUp = s.powerUp)
    (hc : t.cfg = s.cfg) (p : Nat) : t.peekU32 p = s.peekU32 p := by
  simp [State.peekU32, State.memRead, State.peekBytes_congr hb hp hc]

theorem State.peekU16_congr {s t : State} (hb : t.buf = s.buf) (hp : t.powerUp = s.powerUp)
    (hc : t.cfg = s.cfg) (p : Nat) : t.peekU16 p = s.peekU16 p := by
  simp [State.peekU16, State.memRead, State.peekBytes_congr hb hp hc, hc]

/-- A position and the same position taken modulo `C` name the same bytes. -/
theorem State.peekBytes_mod (s : State) (p n : Nat) :
    s.peekBytes (p % s.cfg.capacity) n = s.peekBytes p n := by
  simp [State.peekBytes]

theorem State.peekBytes_add (s : State) (p m n : Nat) :
    s.peekBytes p (m + n) = s.peekBytes p m ++ s.peekBytes (p + m) n := by
  simp [State.peekBytes, List.range_add, Nat.add_assoc]

/-! ## Little-endian numbers -/

@[simp] theorem uLe_nil : uLe [] = 0 := rfl

@[simp] theorem uLe_cons (b : Byte) (s : List Byte) : uLe (b :: s) = b.toNat + 256 * uLe s := rfl

theorem uLe_lt (s : List Byte) : uLe s < 2 ^ (8 * s.length) := by
  induction s with
  | nil => simp
  | cons b s ih =>
    have hb := b.isLt
    rw [uLe_cons, List.length_cons, show 8 * (s.length + 1) = 8 * s.length + 8 by ring, Nat.pow_add]
    omega

theorem uLe_append (s t : List Byte) : uLe (s ++ t) = uLe s + 2 ^ (8 * s.length) * uLe t := by
  induction s with
  | nil => simp
  | cons b s ih =>
    rw [List.cons_append, uLe_cons, ih, uLe_cons, List.length_cons,
      show 8 * (s.length + 1) = 8 + 8 * s.length by ring, Nat.pow_add]
    ring

/-- A byte sequence of a given length is determined by its number. -/
theorem uLe_inj {s t : List Byte} (hl : s.length = t.length) (h : uLe s = uLe t) : s = t := by
  induction s generalizing t with
  | nil => cases t with
    | nil => rfl
    | cons => simp at hl
  | cons b s ih =>
    cases t with
    | nil => simp at hl
    | cons c t =>
      have hb := b.isLt
      have hc := c.isLt
      simp only [uLe_cons] at h
      have h1 : b.toNat = c.toNat := by omega
      have h2 : uLe s = uLe t := by omega
      rw [BitVec.eq_of_toNat_eq h1, ih (by simpa using hl) h2]

@[simp] theorem leBytes_length {w : Nat} (n : Nat) (v : BitVec w) : (leBytes n v).length = n := by
  simp [leBytes]

theorem leBytes_getElem {w : Nat} (n : Nat) (v : BitVec w) (i : Nat) (h : i < (leBytes n v).length) :
    (leBytes n v)[i] = v.extractLsb' (8 * i) 8 := by
  simp [leBytes]

/-- `u_le` is the inverse of `le_N` (`00_scope.md` R11). -/
theorem uLe_leBytes {w : Nat} (n : Nat) (v : BitVec w) : uLe (leBytes n v) = v.toNat % 2 ^ (8 * n) := by
  induction n with
  | zero => simp [leBytes, Nat.mod_one]
  | succ n ih =>
    have e : leBytes (n + 1) v = leBytes n v ++ [v.extractLsb' (8 * n) 8] := by
      simp [leBytes, List.range_succ]
    rw [e, uLe_append, ih, leBytes_length, show 8 * (n + 1) = 8 * n + 8 by ring, Nat.pow_add, Nat.mod_mul]
    simp [Nat.shiftRight_eq_div_pow]

/-! ### Part of a read, and the fields of a header as bytes -/

theorem State.peekBytes_sub (s : State) (p N a b : Nat) (h : a + b ≤ N) :
    ((s.peekBytes p N).drop a).take b = s.peekBytes (p + a) b := by
  apply List.ext_getElem
  · simp; omega
  · intro i h1 h2
    simp [State.peekBytes_getElem, List.getElem_take, List.getElem_drop, Nat.add_assoc]

theorem ofNat_uLe_eq_iff {l : List Byte} (h : l.length = 4) (w : Word) :
    BitVec.ofNat 32 (uLe l) = w ↔ l = leBytes 4 w := by
  have hl := uLe_lt l
  rw [h] at hl
  constructor
  · intro e
    apply uLe_inj (by simp [h])
    rw [uLe_leBytes, ← e]
    simp only [BitVec.toNat_ofNat]
    omega
  · rintro rfl
    rw [uLe_leBytes]
    apply BitVec.eq_of_toNat_eq
    have := w.isLt
    simp only [BitVec.toNat_ofNat]
    omega

theorem State.peekU32_eq_iff (s : State) (p : Nat) (w : Word) :
    s.peekU32 p = w ↔ s.peekBytes p 4 = leBytes 4 w := by
  rw [State.peekU32, State.memRead, ofNat_uLe_eq_iff (by simp)]

theorem State.peekU16_toNat (s : State) (p : Nat) : (s.peekU16 p).toNat = uLe (s.peekBytes p 2) := by
  have hl := uLe_lt (s.peekBytes p 2)
  simp only [State.peekBytes_length] at hl
  rw [State.peekU16, State.memRead, State.peekBytes_mod, BitVec.toNat_ofNat, Nat.mod_eq_of_lt hl]

end Sys2Proof.Machine
end

