-- ==== Sys2Proof/Laws/Decoder.lean ====
section
/-! SUPPORT. The drain, one transition of the state machine, and runs of it. -/

namespace Sys2Proof.Machine

/-! ## The drain (`43_frame_decoder.md` R151) -/

theorem State.drainFrom_nil (s : State) : State.drainFrom [] s = s.setRxq [] := rfl

theorem State.drainFrom_cons_full {s : State} (v : Byte) (q : List Byte) (h : s.full) :
    State.drainFrom (v :: q) s = (s.setRxq (v :: q)).raise .overrun := if_pos h

theorem State.drainFrom_cons {s : State} (v : Byte) (q : List Byte) (h : ¬ s.full) :
    State.drainFrom (v :: q) s = State.drainFrom q (s.storeByte v) := if_neg h

/-- What the drain leaves alone, from any state. -/
theorem State.drainFrom_frame (q : List Byte) (s : State) :
    State.drainFrom q s = { s with
      buf := (State.drainFrom q s).buf, wcur := (State.drainFrom q s).wcur,
      rxq := (State.drainFrom q s).rxq, status := (State.drainFrom q s).status } := by
  induction q generalizing s with
  | nil => rfl
  | cons v q ih =>
    by_cases h : s.full
    · rw [State.drainFrom_cons_full v q h]; rfl
    · rw [State.drainFrom_cons v q h]
      conv_lhs => rw [ih]
      rfl

section
variable (s : State)

@[simp] theorem State.drain_cfg : s.drain.cfg = s.cfg := by rw [State.drain, State.drainFrom_frame]
@[simp] theorem State.drain_rcur : s.drain.rcur = s.rcur := by rw [State.drain, State.drainFrom_frame]
@[simp] theorem State.drain_fsm : s.drain.fsm = s.fsm := by rw [State.drain, State.drainFrom_frame]
@[simp] theorem State.drain_latch : s.drain.latch = s.latch := by rw [State.drain, State.drainFrom_frame]
@[simp] theorem State.drain_txlog : s.drain.txlog = s.txlog := by rw [State.drain, State.drainFrom_frame]
@[simp] theorem State.drain_inputs : s.drain.inputs = s.inputs := by rw [State.drain, State.drainFrom_frame]
@[simp] theorem State.drain_responses : s.drain.responses = s.responses := by
  rw [State.drain, State.drainFrom_frame]
@[simp] theorem State.drain_powerUp : s.drain.powerUp = s.powerUp := by rw [State.drain, State.drainFrom_frame]
@[simp] theorem State.drain_draws : s.drain.draws = s.draws := by rw [State.drain, State.drainFrom_frame]

end

/-- What the drain of `q` does to a state whose cursors are in range: the oldest `k` bytes move, `k` the
smaller of the length of `q` and the free room. -/
theorem State.drainFrom_spec (q : List Byte) {s : State} (hc : 2 ≤ s.cfg.capacity)
    (hw : s.wcur < s.cfg.capacity) (hr : s.rcur < s.cfg.capacity) {k : Nat}
    (hk : k = min q.length (s.cfg.capacity - 1 - s.unread)) :
    (State.drainFrom q s).wcur = (s.wcur + k) % s.cfg.capacity ∧
    (State.drainFrom q s).rxq = q.drop k ∧
    (State.drainFrom q s).status =
      (if s.cfg.capacity - 1 - s.unread < q.length then s.status ||| Event.overrun.bit else s.status) ∧
    (State.drainFrom q s).unread = s.unread + k ∧
    (∀ j, j < k → (State.drainFrom q s).buf.read? ((s.wcur + j) % s.cfg.capacity) = q[j]?) ∧
    (∀ a, (∀ j, j < k → a ≠ (s.wcur + j) % s.cfg.capacity) →
      (State.drainFrom q s).buf.read? a = s.buf.read? a) := by
  have hu : s.unread < s.cfg.capacity := State.availableFrom_lt hw hr
  induction q generalizing s k with
  | nil =>
    subst hk
    refine ⟨by simp [State.drainFrom, Nat.mod_eq_of_lt hw], by simp [State.drainFrom],
      by simp [State.drainFrom], by simp [State.drainFrom, State.availableFrom],
      by simp, by simp [State.drainFrom]⟩
  | cons v q ih =>
    by_cases h : s.full
    · have hk0 : k = 0 := by simp only [State.full] at h; omega
      have hroom : s.cfg.capacity - 1 - s.unread = 0 := by simp only [State.full] at h; omega
      rw [State.drainFrom_cons_full v q h]
      subst hk0
      refine ⟨by simp [Nat.mod_eq_of_lt hw], by simp, by simp [hroom], rfl, by simp, by simp⟩
    · have hs := State.unread_storeByte v hw hr h
      have hne : s.unread ≠ s.cfg.capacity - 1 := h
      have hw' : (s.wcur + 1) % s.cfg.capacity < s.cfg.capacity := Nat.mod_lt _ (by omega)
      obtain ⟨j, rfl⟩ : ∃ j, k = j + 1 := ⟨k - 1, by
        rw [hk]; simp only [List.length_cons]; omega⟩
      have hj : j = min q.length ((s.storeByte v).cfg.capacity - 1 - (s.storeByte v).unread) := by
        rw [hs]; simp only [State.storeByte_cfg, List.length_cons] at *; omega
      obtain ⟨h1, h2, h3, h4, h5, h6⟩ := ih (s := s.storeByte v) hc hw' hr hj
        (State.availableFrom_lt (s := s.storeByte v) hw' hr)
      simp only [State.storeByte_cfg, State.storeByte_wcur] at h1 h3 h5 h6
      have hidx : ∀ i, ((s.wcur + 1) % s.cfg.capacity + i) % s.cfg.capacity
          = (s.wcur + (i + 1)) % s.cfg.capacity := fun i => by
        rw [Nat.mod_add_mod]; congr 1; omega
      have hjc : j + 1 < s.cfg.capacity := by omega
      rw [State.drainFrom_cons v q h]
      refine ⟨?_, by simpa using h2, ?_, by rw [h4, hs]; omega, ?_, ?_⟩
      · rw [h1, hidx]
      · rw [h3, hs]
        have : (s.cfg.capacity - 1 - (s.unread + 1) < q.length) ↔
            (s.cfg.capacity - 1 - s.unread < (v :: q).length) := by
          simp only [List.length_cons]; omega
        simp only [this, State.storeByte_status]
      · intro i hi
        cases i with
        | zero =>
          rw [h6 _ (fun m hm => by
            rw [hidx, Nat.add_zero, Nat.mod_eq_of_lt hw, mod_add_cases hw (by omega)]
            split <;> omega)]
          simp [Memory.read?_write, Nat.mod_eq_of_lt hw]
        | succ i =>
          rw [← hidx, h5 i (by omega)]
          simp
      · intro a ha
        rw [h6 a (fun m hm => by rw [hidx]; exact ha (m + 1) (by omega))]
        have := ha 0 (by omega)
        rw [Nat.add_zero, Nat.mod_eq_of_lt hw] at this
        simp [Memory.read?_write, this]

/-- The drain keeps ring storage in canonical form and within its indices. -/
theorem State.drainFrom_buf (q : List Byte) {s : State} (hw : s.wcur < s.cfg.capacity) (hb : s.buf.wf)
    (hi : ∀ c ∈ s.buf, c.1 < s.cfg.capacity) :
    (State.drainFrom q s).buf.wf ∧ ∀ c ∈ (State.drainFrom q s).buf, c.1 < s.cfg.capacity := by
  induction q generalizing s with
  | nil => exact ⟨hb, hi⟩
  | cons v q ih =>
    by_cases h : s.full
    · rw [State.drainFrom_cons_full v q h]; exact ⟨hb, hi⟩
    · rw [State.drainFrom_cons v q h]
      exact ih (s := s.storeByte v) (Nat.mod_lt _ (Nat.zero_lt_of_lt hw))
        (Memory.write_wf _ _ hb)
        (fun c hc => by
          rcases Memory.mem_write hc with hc | hc
          · rw [hc]; exact hw
          · exact hi c hc)

/-- The drain does not look at the latch or at `fsm`. -/
theorem State.drainFrom_setLatch_setFsm (q : List Byte) (s : State) (l : Latch) (f : Fsm) :
    State.drainFrom q ((s.setLatch l).setFsm f) = ((State.drainFrom q s).setLatch l).setFsm f := by
  induction q generalizing s with
  | nil => rfl
  | cons v q ih =>
    by_cases h : s.full
    · rw [State.drainFrom_cons_full v q h, State.drainFrom_cons_full v q (s := (s.setLatch l).setFsm f) h]
      rfl
    · rw [State.drainFrom_cons v q h, State.drainFrom_cons v q (s := (s.setLatch l).setFsm f) h]
      exact ih (s.storeByte v)

/-! ## One transition of the state machine -/

/-- What no transition writes. -/
theorem fsmStep_frame (s : State) :
    (∀ t, fsmStep s = .goTo t → t = { s with
      buf := t.buf, wcur := t.wcur, rcur := t.rcur, status := t.status, fsm := t.fsm, latch := t.latch,
      rxq := t.rxq }) ∧
    (∀ t r, fsmStep s = .finish t r → t = { s with latch := t.latch, fsm := .idle }) := by
  unfold fsmStep
  split <;> constructor
  all_goals first
    | (intro t h; simp only [fsmIdle, fsmBody, fsmConsume] at h; cases h; rfl)
    | (intro t r h; simp only [fsmIdle, fsmDrain, fsmBody, fsmConsume] at h; cases h)
    | (intro t h; simp only [fsmDrain, State.drain] at h; cases h; rw [State.drainFrom_frame]; rfl)
    | (intro t h; simp only [fsmCheck, fsmSync, fsmHdr, fsmLen, fsmVerdict] at h
       split at h <;> cases h <;> rfl)
    | (intro t r h; simp only [fsmCheck, fsmSync, fsmHdr, fsmLen, fsmVerdict] at h
       split at h <;> cases h <;> rfl)

/-- A property of states that every transition keeps holds where a run of the state machine ends. -/
theorem fsmRun_induct (P : State → Prop)
    (hgo : ∀ s t, P s → fsmStep s = .goTo t → P t)
    (hfin : ∀ s t r, P s → fsmStep s = .finish t r → P t) :
    ∀ n s t r, P s → fsmRun n s = some (t, r) → P t := by
  intro n
  induction n with
  | zero => intro s t r _ h; simp [fsmRun] at h
  | succ n ih =>
    intro s t r hs h
    simp only [fsmRun] at h
    split at h
    · rename_i u hu
      exact ih u t r (hgo s u hs hu) h
    · rename_i u r' hu
      cases h
      exact hfin s t r hs hu

/-- A run that ends stays the same with more transitions allowed. -/
theorem fsmRun_mono {n : Nat} {s : State} {x : State × Response} (h : fsmRun n s = some x) (m : Nat) :
    fsmRun (n + m) s = some x := by
  induction n generalizing s with
  | zero => simp [fsmRun] at h
  | succ n ih =>
    rw [Nat.succ_add]
    simp only [fsmRun] at *
    split at h
    · exact ih h
    · exact h

theorem fsmRun_goTo {n : Nat} {s t : State} (h : fsmStep s = .goTo t) : fsmRun (n + 1) s = fsmRun n t := by
  simp [fsmRun, h]

theorem fsmRun_finish {n : Nat} {s t : State} {r : Response} (h : fsmStep s = .finish t r) :
    fsmRun (n + 1) s = some (t, r) := by
  simp [fsmRun, h]

/-! ## One pass of the loop of R163 -/

/-- The body a candidate at `rcur` would have. -/
abbrev State.candidateBody (s : State) : List Byte :=
  s.peekBytes ((s.rcur + 8) % s.cfg.capacity) ((s.peekU16 (s.rcur + 6)).toNat - 12)

/-- The checksum field a candidate at `rcur` would have. -/
abbrev State.candidateField (s : State) : Word :=
  s.peekU32 ((s.rcur + (s.peekU16 (s.rcur + 6)).toNat - 4) % s.cfg.capacity)

/-- The header at `rcur` is valid. -/
abbrev State.candidateValid (s : State) : Prop :=
  headerValid s.cfg (s.peekU16 (s.rcur + 4)) (s.peekU16 (s.rcur + 6))

theorem State.searchPass_eq (s : State) : s.searchPass =
    if s.unread ≤ 8 then .done s (Response.bare .noFrame)
    else if s.peekU32 s.rcur ≠ s.cfg.preamble then .again s.resync
    else if ¬ s.candidateValid then .again s.resync
    else if s.unread < (s.peekU16 (s.rcur + 6)).toNat then .done s (Response.bare .noFrame)
    else if checksum s.candidateBody = s.candidateField then
      .done (s.advanceRead (s.peekU16 (s.rcur + 6)).toNat)
        (frameDecoded (s.peekU16 (s.rcur + 4)) s.candidateBody)
    else .again ((s.advanceRead (s.peekU16 (s.rcur + 6)).toNat).raise .checksumMismatch) := rfl

/-- All that one pass of the search can do. -/
theorem State.searchPass_cases (s : State) :
    (s.searchPass = .done s (Response.bare .noFrame) ∧
      (s.unread ≤ 8 ∨ (s.peekU32 s.rcur = s.cfg.preamble ∧ s.candidateValid ∧
        s.unread < (s.peekU16 (s.rcur + 6)).toNat))) ∨
    (s.searchPass = .again s.resync ∧ 8 < s.unread ∧
      (s.peekU32 s.rcur ≠ s.cfg.preamble ∨ ¬ s.candidateValid)) ∨
    (8 < s.unread ∧ s.peekU32 s.rcur = s.cfg.preamble ∧ s.candidateValid ∧
      (s.peekU16 (s.rcur + 6)).toNat ≤ s.unread ∧
      ((s.searchPass = .done (s.advanceRead (s.peekU16 (s.rcur + 6)).toNat)
          (frameDecoded (s.peekU16 (s.rcur + 4)) s.candidateBody) ∧
        checksum s.candidateBody = s.candidateField) ∨
       (s.searchPass = .again
          ((s.advanceRead (s.peekU16 (s.rcur + 6)).toNat).raise .checksumMismatch) ∧
        checksum s.candidateBody ≠ s.candidateField))) := by
  rw [s.searchPass_eq]
  by_cases h1 : s.unread ≤ 8
  · exact .inl ⟨if_pos h1, .inl h1⟩
  rw [if_neg h1]
  by_cases h2 : s.peekU32 s.rcur = s.cfg.preamble
  swap
  · exact .inr (.inl ⟨if_pos h2, by omega, .inl h2⟩)
  rw [if_neg (not_not.2 h2)]
  by_cases h3 : s.candidateValid
  swap
  · exact .inr (.inl ⟨if_pos h3, by omega, .inr h3⟩)
  rw [if_neg (not_not.2 h3)]
  by_cases h4 : s.unread < (s.peekU16 (s.rcur + 6)).toNat
  · exact .inl ⟨if_pos h4, .inr ⟨h2, h3, h4⟩⟩
  rw [if_neg h4]
  refine .inr (.inr ⟨by omega, h2, h3, by omega, ?_⟩)
  by_cases h5 : checksum s.candidateBody = s.candidateField
  · exact .inl ⟨if_pos h5, h5⟩
  · exact .inr ⟨if_neg h5, h5⟩

/-- A pass of the loop writes the read cursor and STATUS only. -/
theorem State.searchPass_frame (s : State) :
    (∀ t, s.searchPass = .again t → t = { s with rcur := t.rcur, status := t.status }) ∧
    (∀ t r, s.searchPass = .done t r → t = { s with rcur := t.rcur }) := by
  rcases s.searchPass_cases with ⟨e, -⟩ | ⟨e, -⟩ | ⟨-, -, -, -, ⟨e, -⟩ | ⟨e, -⟩⟩ <;> rw [e] <;>
    exact ⟨fun t h => by cases h <;> rfl, fun t r h => by cases h <;> rfl⟩

/-- The loop of R163 writes the read cursor and STATUS only. -/
theorem State.searchLoop_frame (n : Nat) {s t : State} {r : Response}
    (h : State.searchLoop n s = some (t, r)) : t = { s with rcur := t.rcur, status := t.status } := by
  induction n generalizing s with
  | zero => simp [State.searchLoop] at h
  | succ n ih =>
    simp only [State.searchLoop] at h
    split at h
    · rename_i u hu
      have h1 := ih h
      rw [s.searchPass_frame.1 u hu] at h1
      exact h1
    · rename_i u r' hu
      cases h
      rw [s.searchPass_frame.2 _ _ hu]

/-- A pass that goes round again gives up one byte, or a whole frame of at least 12, all unread. -/
theorem State.searchPass_again {s t : State} (h : s.searchPass = .again t) :
    ∃ n e, (n = 1 ∨ 12 ≤ n) ∧ n ≤ s.unread ∧ t = (s.advanceRead n).raise e := by
  rcases s.searchPass_cases with ⟨e, -⟩ | ⟨e, h8, -⟩ | ⟨-, -, hv, hl, ⟨e, -⟩ | ⟨e, -⟩⟩
  · rw [e] at h; cases h
  · rw [e] at h; cases h
    exact ⟨1, .syncLoss, .inl rfl, by omega, rfl⟩
  · rw [e] at h; cases h
  · rw [e] at h; cases h
    exact ⟨_, .checksumMismatch, .inr hv.2.2, hl, rfl⟩

end Sys2Proof.Machine
end

