-- ==== Sys2Proof/Laws/Exec.lean ====
section
/-! SUPPORT. What each operation and the step can do, said once, so that no later proof unfolds them. -/

namespace Sys2Proof.Machine

variable {s t : State}

theorem execPush_cases {v : Byte} (h : exec (.push v) s = .next t) :
    (s.full ∧ t = (s.raise .overrun).respond (Response.bare .refusedFull)) ∨
    (¬ s.full ∧ t = (s.storeByte v).respond (Response.bare .ok)) := by
  simp only [exec, execPush] at h
  split at h
  · rename_i hf; cases h; exact .inl ⟨hf, rfl⟩
  · rename_i hf; cases h; exact .inr ⟨hf, rfl⟩

theorem execAvail_cases {pos : Half} (h : exec (.avail pos) s = .next t) :
    (s.posLegal pos ∧ t = s.respond (Response.value (BitVec.ofNat 32 (s.availableFrom pos.toNat)))) ∨
    (¬ s.posLegal pos ∧ t = s.refuseOperand) := by
  simp only [exec, execAvail] at h
  split at h
  · rename_i hf; cases h; exact .inl ⟨hf, rfl⟩
  · rename_i hf; cases h; exact .inr ⟨hf, rfl⟩

theorem execPeek32_cases {pos : Half} (h : exec (.peek32 pos) s = .next t) :
    (s.posLegal pos ∧ t = s.respond (Response.value (s.peekU32 pos.toNat))) ∨
    (¬ s.posLegal pos ∧ t = s.refuseOperand) := by
  simp only [exec, execPeek32] at h
  split at h
  · rename_i hf; cases h; exact .inl ⟨hf, rfl⟩
  · rename_i hf; cases h; exact .inr ⟨hf, rfl⟩

theorem execPeekb_cases {pos n : Half} (h : exec (.peekb pos n) s = .next t) :
    ((s.posLegal pos ∧ s.countLegal n) ∧ t = s.respond (Response.bytes (s.peekBytes pos.toNat n.toNat))) ∨
    (¬ (s.posLegal pos ∧ s.countLegal n) ∧ t = s.refuseOperand) := by
  simp only [exec, execPeekb] at h
  split at h
  · rename_i hf; cases h; exact .inl ⟨hf, rfl⟩
  · rename_i hf; cases h; exact .inr ⟨hf, rfl⟩

theorem execAdvance_cases {n : Half} (h : exec (.advance n) s = .next t) :
    t = (s.advanceRead n.toNat).respond (Response.bare .ok) := by cases h; rfl

theorem execChecksum_cases {len : Half} {din : List Byte} (h : exec (.checksum len din) s = .next t) :
    (lengthLegal len din ∧ t = s.respond (Response.value (checksum din))) ∨
    (¬ lengthLegal len din ∧ t = s.refuseOperand) := by
  simp only [exec, execChecksum] at h
  split at h
  · rename_i hf; cases h; exact .inl ⟨hf, rfl⟩
  · rename_i hf; cases h; exact .inr ⟨hf, rfl⟩

theorem execEncode_cases {id : Half} {din : List Byte} (h : exec (.encode id din) s = .next t) :
    (∃ m, s.payload? id din = some m ∧ t = s.respond (frameResponse s.cfg m (frame s.cfg id din))) ∨
    (s.payload? id din = none ∧ t = s.refuseOperand) := by
  simp only [exec, execEncode] at h
  split at h
  · rename_i hp; cases h; exact .inr ⟨hp, rfl⟩
  · rename_i m hp; cases h; exact .inl ⟨m, hp, rfl⟩

theorem execSend_cases {id : Half} {din : List Byte} (h : exec (.send id din) s = .next t) :
    (∃ m, s.payload? id din = some m ∧
      t = (s.transportWrite (frame s.cfg id din)).respond (frameResponse s.cfg m (frame s.cfg id din))) ∨
    (s.payload? id din = none ∧ t = s.refuseOperand) := by
  simp only [exec, execSend] at h
  split at h
  · rename_i hp; cases h; exact .inr ⟨hp, rfl⟩
  · rename_i m hp; cases h; exact .inl ⟨m, hp, rfl⟩

theorem execTryRead_cases (h : exec .tryRead s = .next t) :
    ∃ u r, fsmRun (fsmBound s) (s.setFsm .idle) = some (u, r) ∧ t = u.releaseLatch.respond r := by
  simp only [exec, execTryRead] at h
  split at h
  · rename_i u r hu; cases h; exact ⟨u, r, hu, rfl⟩
  · cases h

theorem execRdStatus_cases (h : exec .rdStatus s = .next t) :
    t = s.respond (Response.value s.statusWord) := by cases h; rfl

theorem execClrStatus_cases {mask : BitVec 3} (h : exec (.clrStatus mask) s = .next t) :
    t = (s.clearFlags mask).respond (Response.bare .ok) := by cases h; rfl

theorem execRdCursors_cases (h : exec .rdCursors s = .next t) :
    t = s.respond (Response.value s.cursorWord) := by cases h; rfl

/-! ## What an operation's operands are when they are legal -/

theorem State.payload?_eq_some {id : Half} {din : List Byte} {m : MessageId} :
    s.payload? id din = some m ↔ id = m.number ∧ din.length = s.cfg.payloadSize m := by
  unfold State.payload? MessageId.ofNumber?
  by_cases h0 : id = 0#16
  · subst h0; cases m <;> simp [MessageId.number]
  · by_cases h1 : id = 1#16
    · subst h1; cases m <;> simp [MessageId.number]
    · cases m <;> simp [h0, h1, MessageId.number]

/-! ## The step -/

/-- All that a step which goes on can do. -/
theorem step_cases (h : step s = .next t) : s.cfg.wf ∧
    ((s.inputs = [] ∧ t = s) ∨
     (∃ bytes rest, s.inputs = .arrive bytes :: rest ∧ t = s.dropInput.arrive bytes) ∨
     (∃ w din rest e, s.inputs = .command w din :: rest ∧ decode w din = .error e ∧
       t = s.dropInput.refuseCommand) ∨
     (∃ w din rest i, s.inputs = .command w din :: rest ∧ decode w din = .ok i ∧
       exec i s.dropInput = .next t)) := by
  unfold step at h
  split at h
  swap
  · cases h
  rename_i hc
  refine ⟨hc, ?_⟩
  unfold State.nextOffer at h
  rcases hi : s.inputs with _ | ⟨⟨w, din⟩ | bytes, rest⟩ <;> rw [hi] at h
  · cases h; exact .inl ⟨rfl, rfl⟩
  · cases hd : decode w din with
    | error e => simp only [hd] at h; cases h; exact .inr (.inr (.inl ⟨w, din, rest, e, rfl, hd, rfl⟩))
    | ok i => simp only [hd] at h; exact .inr (.inr (.inr ⟨w, din, rest, i, rfl, hd, h⟩))
  · cases h; exact .inr (.inl ⟨bytes, rest, rfl, rfl⟩)

end Sys2Proof.Machine
end

