-- ==== Sys2Proof/Laws/Fsm.lean ====
section
/-! SUPPORT. What a run of the state machine of R165 does from CHECK, beside one pass of the loop of R163. -/

namespace Sys2Proof.Machine

section
variable {s : State}

theorem fsmStep_check_go (h : s.fsm = .check) (h8 : 8 < s.unread) :
    fsmStep s = .goTo ((s.setLatch { s.latch with avail := s.unread }).setFsm .sync) := by
  rw [fsmStep, h]; exact if_pos h8

theorem fsmStep_check_exit (h : s.fsm = .check) (h8 : s.unread ≤ 8) :
    fsmStep s = .finish ((s.setLatch { s.latch with avail := s.unread }).setFsm .idle)
      (Response.bare .noFrame) := by
  rw [fsmStep, h]; exact if_neg (by simpa using h8)

theorem fsmStep_sync_hit (h : s.fsm = .sync) (hp : s.peekU32 s.rcur = s.cfg.preamble) :
    fsmStep s = .goTo (s.setFsm .hdr) := by
  rw [fsmStep, h]; exact if_pos hp

theorem fsmStep_sync_miss (h : s.fsm = .sync) (hp : s.peekU32 s.rcur ≠ s.cfg.preamble) :
    fsmStep s = .goTo (s.resync.setFsm .check) := by
  rw [fsmStep, h]; exact if_neg hp

theorem fsmStep_hdr_good (h : s.fsm = .hdr) (hv : s.candidateValid) :
    fsmStep s = .goTo ((s.setLatch { s.latch with
      hId := s.peekU16 (s.rcur + 4), hLen := s.peekU16 (s.rcur + 6) }).setFsm .len) := by
  rw [fsmStep, h]; exact if_pos hv

theorem fsmStep_hdr_bad (h : s.fsm = .hdr) (hv : ¬ s.candidateValid) :
    fsmStep s = .goTo ((s.setLatch { s.latch with
      hId := s.peekU16 (s.rcur + 4), hLen := s.peekU16 (s.rcur + 6) }).resync.setFsm .check) := by
  rw [fsmStep, h]; exact if_neg hv

theorem fsmStep_len_wait (h : s.fsm = .len) (hl : s.latch.avail < s.latch.hLen.toNat) :
    fsmStep s = .finish (s.setFsm .idle) (Response.bare .noFrame) := by
  rw [fsmStep, h]; exact if_pos hl

theorem fsmStep_len_go (h : s.fsm = .len) (hl : ¬ s.latch.avail < s.latch.hLen.toNat) :
    fsmStep s = .goTo (s.setFsm .body) := by
  rw [fsmStep, h]; exact if_neg hl

theorem fsmStep_verdict_good (h : s.fsm = .verdict) (hc : s.latch.ck = s.latch.rxck) :
    fsmStep s = .finish (s.setFsm .idle) (frameDecoded s.latch.hId s.latch.body) := by
  rw [fsmStep, h]; exact if_pos hc

theorem fsmStep_verdict_bad (h : s.fsm = .verdict) (hc : s.latch.ck ≠ s.latch.rxck) :
    fsmStep s = .goTo ((s.raise .checksumMismatch).setFsm .check) := by
  rw [fsmStep, h]; exact if_neg hc

/-- The latch as it stands when a candidate with a valid header is waited for. -/
abbrev State.headerLatch (s : State) : Latch :=
  { s.latch with avail := s.unread, hId := s.peekU16 (s.rcur + 4), hLen := s.peekU16 (s.rcur + 6) }

/-- The latch as it stands when a candidate has been copied out. -/
abbrev State.bodyLatch (s : State) : Latch :=
  { s.headerLatch with
    body := s.candidateBody, rxck := s.candidateField, reg := crc16 s.candidateBody,
    ck := checksum s.candidateBody }

/-- From CHECK to LEN over a valid header: three transitions. -/
theorem fsmRun_to_len (n : Nat) (h : s.fsm = .check) (h8 : 8 < s.unread)
    (hp : s.peekU32 s.rcur = s.cfg.preamble) (hv : s.candidateValid) :
    fsmRun (n + 3) s = fsmRun n ((s.setLatch s.headerLatch).setFsm .len) := by
  rw [show n + 3 = (n + 2) + 1 from rfl, fsmRun_goTo (fsmStep_check_go h h8),
    show n + 2 = (n + 1) + 1 from rfl,
    fsmRun_goTo (fsmStep_sync_hit (s := (s.setLatch { s.latch with avail := s.unread }).setFsm .sync) rfl hp),
    fsmRun_goTo (fsmStep_hdr_good
      (s := ((s.setLatch { s.latch with avail := s.unread }).setFsm .sync).setFsm .hdr) rfl hv)]
  rfl

/-- From LEN to VERDICT over a frame that is all there: three transitions. -/
theorem fsmRun_to_verdict (n : Nat) (hl : (s.peekU16 (s.rcur + 6)).toNat ≤ s.unread) :
    fsmRun (n + 3) ((s.setLatch s.headerLatch).setFsm .len) =
      fsmRun n (((s.advanceRead (s.peekU16 (s.rcur + 6)).toNat).setLatch s.bodyLatch).setFsm .verdict) := by
  rw [show n + 3 = (n + 2) + 1 from rfl,
    fsmRun_goTo (fsmStep_len_go (s := (s.setLatch s.headerLatch).setFsm .len) rfl (Nat.not_lt.2 hl))]
  rfl

/-- One pass of the loop, run by the state machine from CHECK, where the pass goes round again. -/
theorem fsmRun_pass_again {t : State} (h : s.fsm = .check) (hs : s.searchPass = .again t) :
    ∃ k l, k ≤ 7 ∧ ∀ n, fsmRun (n + k) s = fsmRun n ((t.setLatch l).setFsm .check) := by
  rcases s.searchPass_cases with ⟨e, -⟩ | ⟨e, h8, hbad⟩ | ⟨h8, hp, hv, hl, ⟨e, -⟩ | ⟨e, hc⟩⟩
  · rw [e] at hs; cases hs
  · rw [e] at hs; cases hs
    by_cases hp : s.peekU32 s.rcur = s.cfg.preamble
    · have hv : ¬ s.candidateValid := hbad.resolve_left (not_not.2 hp)
      refine ⟨3, s.headerLatch, by omega, fun n => ?_⟩
      rw [show n + 3 = (n + 2) + 1 from rfl, fsmRun_goTo (fsmStep_check_go h h8),
        show n + 2 = (n + 1) + 1 from rfl,
        fsmRun_goTo (fsmStep_sync_hit
          (s := (s.setLatch { s.latch with avail := s.unread }).setFsm .sync) rfl hp),
        fsmRun_goTo (fsmStep_hdr_bad
          (s := ((s.setLatch { s.latch with avail := s.unread }).setFsm .sync).setFsm .hdr) rfl hv)]
      rfl
    · refine ⟨2, { s.latch with avail := s.unread }, by omega, fun n => ?_⟩
      rw [show n + 2 = (n + 1) + 1 from rfl, fsmRun_goTo (fsmStep_check_go h h8),
        fsmRun_goTo (fsmStep_sync_miss
          (s := (s.setLatch { s.latch with avail := s.unread }).setFsm .sync) rfl hp)]
      rfl
  · rw [e] at hs; cases hs
  · rw [e] at hs; cases hs
    refine ⟨7, s.bodyLatch, Nat.le_refl _, fun n => ?_⟩
    rw [show n + 7 = (n + 4) + 3 from rfl, fsmRun_to_len (n + 4) h h8 hp hv,
      show n + 4 = (n + 1) + 3 from rfl, fsmRun_to_verdict (n + 1) hl,
      fsmRun_goTo (fsmStep_verdict_bad
        (s := ((s.advanceRead (s.peekU16 (s.rcur + 6)).toNat).setLatch s.bodyLatch).setFsm .verdict) rfl hc)]
    rfl

/-- One pass of the loop, run by the state machine from CHECK, where the pass responds. -/
theorem fsmRun_pass_done {t : State} {r : Response} (h : s.fsm = .check) (hs : s.searchPass = .done t r) :
    ∃ l, fsmRun 7 s = some ((t.setLatch l).setFsm .idle, r) := by
  rcases s.searchPass_cases with ⟨e, h8 | ⟨hp, hv, hl⟩⟩ | ⟨e, -⟩ | ⟨h8, hp, hv, hl, ⟨e, hc⟩ | ⟨e, -⟩⟩
  · rw [e] at hs; cases hs
    exact ⟨_, fsmRun_finish (fsmStep_check_exit h h8)⟩
  · rw [e] at hs; cases hs
    by_cases h8 : s.unread ≤ 8
    · exact ⟨_, fsmRun_finish (fsmStep_check_exit h h8)⟩
    · refine ⟨s.headerLatch, ?_⟩
      rw [show 7 = 4 + 3 from rfl, fsmRun_to_len 4 h (by omega) hp hv]
      exact fsmRun_finish (fsmStep_len_wait (s := (s.setLatch s.headerLatch).setFsm .len) rfl hl)
  · rw [e] at hs; cases hs
  · rw [e] at hs; cases hs
    refine ⟨s.bodyLatch, ?_⟩
    rw [show 7 = 4 + 3 from rfl, fsmRun_to_len 4 h h8 hp hv, show 4 = 1 + 3 from rfl, fsmRun_to_verdict 1 hl]
    exact fsmRun_finish (fsmStep_verdict_good
      (s := ((s.advanceRead (s.peekU16 (s.rcur + 6)).toNat).setLatch s.bodyLatch).setFsm .verdict) rfl hc)
  · rw [e] at hs; cases hs

end

/-- A pass of the loop does not look at the latch or at `fsm`. -/
theorem State.searchPass_setLatch_setFsm (s : State) (l : Latch) (q : Fsm) :
    ((s.setLatch l).setFsm q).searchPass =
      match s.searchPass with
      | .again t => .again ((t.setLatch l).setFsm q)
      | .done t r => .done ((t.setLatch l).setFsm q) r := by
  rw [State.searchPass_eq, State.searchPass_eq]
  by_cases h1 : s.unread ≤ 8
  · rw [if_pos h1]
    exact if_pos (c := ((s.setLatch l).setFsm q).unread ≤ 8) h1
  rw [if_neg h1]
  refine (if_neg (c := ((s.setLatch l).setFsm q).unread ≤ 8) h1).trans ?_
  by_cases h2 : s.peekU32 s.rcur ≠ s.cfg.preamble
  · rw [if_pos h2]
    exact if_pos (c := ((s.setLatch l).setFsm q).peekU32 s.rcur ≠ s.cfg.preamble) h2
  rw [if_neg h2]
  refine (if_neg (c := ((s.setLatch l).setFsm q).peekU32 s.rcur ≠ s.cfg.preamble) h2).trans ?_
  by_cases h3 : ¬ s.candidateValid
  · rw [if_pos h3]
    exact if_pos (c := ¬ ((s.setLatch l).setFsm q).candidateValid) h3
  rw [if_neg h3]
  refine (if_neg (c := ¬ ((s.setLatch l).setFsm q).candidateValid) h3).trans ?_
  by_cases h4 : s.unread < (s.peekU16 (s.rcur + 6)).toNat
  · rw [if_pos h4]
    exact if_pos (c := ((s.setLatch l).setFsm q).unread < (s.peekU16 (s.rcur + 6)).toNat) h4
  rw [if_neg h4]
  refine (if_neg (c := ((s.setLatch l).setFsm q).unread < (s.peekU16 (s.rcur + 6)).toNat) h4).trans ?_
  by_cases h5 : checksum s.candidateBody = s.candidateField
  · rw [if_pos h5]
    exact if_pos (c := checksum ((s.setLatch l).setFsm q).candidateBody = s.candidateField) h5
  rw [if_neg h5]
  exact if_neg (c := checksum ((s.setLatch l).setFsm q).candidateBody = s.candidateField) h5

/-- The loop of R163, run by the state machine from CHECK. -/
theorem fsmRun_of_searchLoop (n : Nat) {s t : State} {r : Response} (l : Latch)
    (h : State.searchLoop n s = some (t, r)) :
    ∃ l', fsmRun (7 * n) ((s.setLatch l).setFsm .check) = some ((t.setLatch l').setFsm .idle, r) := by
  induction n generalizing s l with
  | zero => simp [State.searchLoop] at h
  | succ n ih =>
    simp only [State.searchLoop] at h
    have hp := s.searchPass_setLatch_setFsm l .check
    split at h
    · rename_i u hu
      rw [hu] at hp
      obtain ⟨k, l1, hk, hrun⟩ := fsmRun_pass_again (s := (s.setLatch l).setFsm .check) rfl hp
      obtain ⟨l2, h2⟩ := ih l1 h
      refine ⟨l2, ?_⟩
      rw [show 7 * (n + 1) = (7 * n + (7 - k)) + k by omega, hrun]
      exact fsmRun_mono h2 (7 - k)
    · rename_i u r' hu
      cases h
      rw [hu] at hp
      obtain ⟨l1, h1⟩ := fsmRun_pass_done (s := (s.setLatch l).setFsm .check) rfl hp
      refine ⟨l1, ?_⟩
      rw [show 7 * (n + 1) = 7 + 7 * n by omega]
      exact fsmRun_mono h1 (7 * n)

end Sys2Proof.Machine
end

