-- ==== Sys2Proof/Laws/PerInstr.lean ====
section
/-! SUPPORT. A statement about every instruction, one lemma per constructor: its command word lies in its
row of `spec/opcode_table.json`. -/

namespace Sys2Proof.Laws.TableRow

/-- The word of `i` has the bits that the `match` and `mask` of its row fix. -/
def Statement (i : Instr) : Prop := (encode i).1 &&& i.op.tableMask = i.op.tableMatch

theorem commandWord_and_mask (op : Byte) (a b za zb : Half) :
    commandWord op a b &&& (0xFF#8 ++ za ++ zb) = commandWord op (a &&& za) (b &&& zb) := by
  have h : op &&& 0xFF#8 = op := by simpa using BitVec.and_allOnes (x := op)
  calc (op ++ a ++ b) &&& (0xFF#8 ++ za ++ zb)
      = ((op ++ a) &&& (0xFF#8 ++ za)) ++ (b &&& zb) := BitVec.and_append
    _ = ((op &&& 0xFF#8) ++ (a &&& za)) ++ (b &&& zb) := by rw [BitVec.and_append]
    _ = commandWord op (a &&& za) (b &&& zb) := by rw [h]; rfl

theorem commandWord_zero (o : Op) : commandWord o.code 0#16 0#16 = o.tableMatch := by
  cases o <;> decide

theorem push (v : Byte) : Statement (.push v) := by
  refine (commandWord_and_mask _ _ _ 0xFFFF#16 0xFF00#16).trans ?_
  have : v.setWidth 16 &&& 0xFF00#16 = 0#16 := by
    revert v; decide
  simp [Instr.a, Instr.b, this]; exact commandWord_zero .push

theorem avail (pos : Half) : Statement (.avail pos) := by
  refine (commandWord_and_mask _ _ _ 0x0000#16 0xFFFF#16).trans ?_
  simp [Instr.a, Instr.b]; exact commandWord_zero .avail

theorem peek32 (pos : Half) : Statement (.peek32 pos) := by
  refine (commandWord_and_mask _ _ _ 0x0000#16 0xFFFF#16).trans ?_
  simp [Instr.a, Instr.b]; exact commandWord_zero .peek32

theorem peekb (pos n : Half) : Statement (.peekb pos n) := by
  refine (commandWord_and_mask _ _ _ 0x0000#16 0x0000#16).trans ?_
  simp [Instr.a, Instr.b]; exact commandWord_zero .peekb

theorem advance (n : Half) : Statement (.advance n) := by
  refine (commandWord_and_mask _ _ _ 0xFFFF#16 0x0000#16).trans ?_
  simp [Instr.a, Instr.b]; exact commandWord_zero .advance

theorem checksum (len : Half) (din : List Byte) : Statement (.checksum len din) := by
  refine (commandWord_and_mask _ _ _ 0xFFFF#16 0x0000#16).trans ?_
  simp [Instr.a, Instr.b]; exact commandWord_zero .checksum

theorem encode (id : Half) (din : List Byte) : Statement (.encode id din) := by
  refine (commandWord_and_mask _ _ _ 0x0000#16 0xFFFF#16).trans ?_
  simp [Instr.a, Instr.b]; exact commandWord_zero .encode

theorem send (id : Half) (din : List Byte) : Statement (.send id din) := by
  refine (commandWord_and_mask _ _ _ 0x0000#16 0xFFFF#16).trans ?_
  simp [Instr.a, Instr.b]; exact commandWord_zero .send

theorem tryRead : Statement .tryRead := by unfold Statement; decide

theorem rdStatus : Statement .rdStatus := by unfold Statement; decide

theorem clrStatus (mask : BitVec 3) : Statement (.clrStatus mask) := by
  unfold Statement; revert mask; decide

theorem rdCursors : Statement .rdCursors := by unfold Statement; decide

end Sys2Proof.Laws.TableRow
end

