-- ==== Sys2Proof/Tests/Slice0.lean ====
section
/-! SUPPORT. The model's own tests: expected values from `95_test_vectors.md` and from the tables of the
rules; and for every statement with hypotheses a witness that meets them. -/

namespace Sys2Proof.Tests

open Sys2Proof.Machine
open Host (Outcome)

/-! ## Helpers -/

/-- The state of a next outcome. -/
def next? : Outcome State Fault Refusal → Option State
  | .next t => some t
  | _ => none

theorem next_of_any {o : Outcome State Fault Refusal} {p : State → Bool} (h : (next? o).any p = true) :
    ∃ t, o = .next t ∧ p t = true := by
  cases o with
  | next t => exact ⟨t, rfl, h⟩
  | fault f => simp [next?] at h
  | refused r => simp [next?] at h

/-- What a test looks at: the responses, both cursors, STATUS and what the transport still holds. -/
structure Seen where
  responses : List Response
  wcur : Nat
  rcur : Nat
  status : BitVec 3
  rxq : List Byte
deriving DecidableEq

def seen (s : State) : Seen := ⟨s.responses, s.wcur, s.rcur, s.status, s.rxq⟩

/-- The one response NO_FRAME. -/
def noFrame : List Response := [⟨.noFrame, 0#16, 0#32, []⟩]

/-- A freshly constructed block with bytes at its transport. -/
def fresh (c : Config) (rx : List Byte) : State := { State.construct c 0 with rxq := rx }

/-- A block under TV with the bytes `l` at indices 0, 1, 2, ... and the cursors and flags given. -/
def ring (l : List Byte) (w r : Nat) (st : BitVec 3) : State :=
  { State.construct Config.tv 0 with
    buf := l.zipIdx.map fun p => (p.2, p.1), wcur := w, rcur := r, status := st }

/-- The block of `95_test_vectors.md` 3.2 after step 1: the bytes 1 to 39 pushed. -/
def pushed39 : State := ring ((List.range 39).map fun i => BitVec.ofNat 8 (i + 1)) 39 0 0#3

/-- The same block after step 11 of 3.2. -/
def wrapped : State :=
  ring (0xA1#8 :: ((List.range 38).map (fun i => BitVec.ofNat 8 (i + 2)) ++ [0xA0#8])) 1 38 1#3

/-- The block with `s`'s next input a command. -/
def commanded (s : State) (w : CmdWord) (din : List Byte) : State := s.offerCommand w din

/-- The configuration TV13. -/
def tv13 : Config := { capacity := 13, preamble := 0xDEADBEEF#32, aeroSize := 0, controlSize := 0 }

/-- FA, FC and the pad of `95_test_vectors.md` 4.1 and 5. -/
def fa : List Byte :=
  [0xEF#8, 0xBE#8, 0xAD#8, 0xDE#8, 0x00#8, 0x00#8, 0x12#8, 0x00#8,
   0x01#8, 0x02#8, 0x03#8, 0x04#8, 0x05#8, 0x06#8, 0xBA#8, 0xDD#8, 0x00#8, 0x00#8]
def fc : List Byte :=
  [0xEF#8, 0xBE#8, 0xAD#8, 0xDE#8, 0x01#8, 0x00#8, 0x0F#8, 0x00#8,
   0xAA#8, 0xBB#8, 0xCC#8, 0x23#8, 0x45#8, 0x00#8, 0x00#8]
def pad : List Byte := List.replicate 10 0x00#8

/-- The checksum field of an empty body. -/
def emptyCrc : List Byte := [0xFF#8, 0xFF#8, 0#8, 0#8]

/-- The bodies of FA and FC. -/
def pa : List Byte := [0x01#8, 0x02#8, 0x03#8, 0x04#8, 0x05#8, 0x06#8]
def pc : List Byte := [0xAA#8, 0xBB#8, 0xCC#8]

/-- Four preamble bytes, an id and a length. -/
def hdr (id0 id1 len0 len1 : Byte) : List Byte :=
  [0xEF#8, 0xBE#8, 0xAD#8, 0xDE#8, id0, id1, len0, len1]

/-- The invariant as a computation, for the witnesses below. -/
def invCheck (s : State) : Bool :=
  decide s.cfg.wf && decide (s.wcur < s.cfg.capacity) && decide (s.rcur < s.cfg.capacity) &&
  decide s.buf.wf && s.buf.all (fun c => decide (c.1 < s.cfg.capacity)) && decide (s.fsm = .idle) &&
  decide (s.latch.avail < s.cfg.capacity) && decide (s.latch.body.length ≤ s.cfg.capacity - 13)

theorem inv_of_check {s : State} (h : invCheck s = true) : s.Inv := by
  simp only [invCheck, Bool.and_eq_true, decide_eq_true_eq, List.all_eq_true] at h
  obtain ⟨⟨⟨⟨⟨⟨⟨h1, h2⟩, h3⟩, h4⟩, h5⟩, h6⟩, h7⟩, h8⟩ := h
  exact ⟨h1, h2, h3, h4, h5, h6, h7, h8⟩

/-! ## WellFormed refuses each ill-formed operand (`30_encoding.md` R98; TV, 7.2, 4.2, 2.3) -/

theorem test_wf_avail_pos : (Instr.avail 40#16).wellFormed .tv = false := by decide
theorem test_wf_avail_last : (Instr.avail 39#16).wellFormed .tv = true := by decide
theorem test_wf_peek32_pos : (Instr.peek32 40#16).wellFormed .tv = false := by decide
theorem test_wf_peekb_pos : (Instr.peekb 40#16 0#16).wellFormed .tv = false := by decide
theorem test_wf_peekb_n : (Instr.peekb 0#16 40#16).wellFormed .tv = false := by decide
theorem test_wf_checksum_len : (Instr.checksum 2#16 [0xAA#8]).wellFormed .tv = false := by decide
theorem test_wf_encode_id : (Instr.encode 2#16 pc).wellFormed .tv = false := by decide
theorem test_wf_encode_size : (Instr.encode 1#16 [0xAA#8, 0xBB#8]).wellFormed .tv = false := by decide
theorem test_wf_send_id : (Instr.send 0x0100#16 pa).wellFormed .tv = false := by decide
theorem test_wf_send_size : (Instr.send 0#16 [1#8, 2#8, 3#8]).wellFormed .tv = false := by decide

/-! ## Decoding: words written out from R93, R95 and R99 -/

theorem test_decode_push : decode 0x0100000041#40 [] = .ok (.push 0x41#8) := by decide
theorem test_decode_avail : decode 0x0200050000#40 [] = .ok (.avail 5#16) := by decide
theorem test_decode_peek32 : decode 0x0300260000#40 [] = .ok (.peek32 38#16) := by decide
theorem test_decode_peekb : decode 0x0400250005#40 [] = .ok (.peekb 37#16 5#16) := by decide
theorem test_decode_advance : decode 0x050000FFFF#40 [] = .ok (.advance 65535#16) := by decide
theorem test_decode_checksum : decode 0x1000000003#40 pc = .ok (.checksum 3#16 pc) := by decide
theorem test_decode_encode : decode 0x2000010000#40 pc = .ok (.encode 1#16 pc) := by decide
theorem test_decode_send : decode 0x2100000000#40 pa = .ok (.send 0#16 pa) := by decide
theorem test_decode_tryRead : decode 0x3000000000#40 [] = .ok .tryRead := by decide
theorem test_decode_rdStatus : decode 0xF000000000#40 [] = .ok .rdStatus := by decide
theorem test_decode_clrStatus : decode 0xF100000005#40 [] = .ok (.clrStatus 5#3) := by decide
theorem test_decode_rdCursors : decode 0xF200000000#40 [] = .ok .rdCursors := by decide

/-- The refusals of `95_test_vectors.md` 7.2 that are BAD_CMD, by the reason the decoder gives. -/
theorem test_decode_reserved :
    [decode 0x0000000000#40 [], decode 0x0600000000#40 [], decode 0x3100000000#40 [], decode 0xFFFFFFFFFF#40 [],
     decode 0x0100000141#40 [], decode 0x0100010041#40 [], decode 0x0100000041#40 [0#8], decode 0x0200000001#40 [],
     decode 0x0500010001#40 [], decode 0x3000000001#40 [], decode 0xF000010000#40 [], decode 0xF100000008#40 [],
     decode 0xF200000001#40 [], decode 0x1000010000#40 [], decode 0x2000010001#40 pc] =
    List.replicate 4 (.error .reservedOp) ++ List.replicate 2 (.error .nonzeroField) ++
    .error .unexpectedDin :: List.replicate 8 (.error .nonzeroField) := by decide

/-- No two rows of the opcode table overlap: the operation codes differ, and every mask covers them. -/
theorem test_rows_do_not_overlap :
    (Op.all.Pairwise fun x y => x.code ≠ y.code) ∧
    Op.all.all (fun o => (o.tableMask.extractLsb' 32 8 == 0xFF#8) && (o.tableMatch.extractLsb' 32 8 == o.code))
      = true := by decide

/-- The host's view: the row's word decodes, and the next step runs it. -/
theorem test_table_word : decodeTableWord 40 0x2000000000 = some (.encode 0#16 (List.replicate 6 0#8)) := by
  decide +kernel

theorem test_fetch_word : (next? (step (State.reset.withFetchWord 40 0x1000000003))).map seen =
    (next? (exec (.checksum 3#16 [0#8, 0#8, 0#8]) State.reset)).map seen := by decide +kernel

/-! ## The operations -/

/-- 3.2 step 10: stored at index 39, the cursor wraps. -/
theorem test_push_wraps : (next? (exec (.push 0xA0#8) (ring [] 39 38 1#3))).map
    (fun t => (t.responses, t.wcur, t.buf)) = some ([⟨.ok, 0#16, 0#32, []⟩], 0, [(39, 0xA0#8)]) := by
  decide +kernel

/-- 3.2 step 3: full, refused, OVR. -/
theorem test_push_full : (next? (exec (.push 0xEE#8) pushed39)).map
    (fun t => (t.responses, t.wcur, t.status, t.buf == pushed39.buf)) =
    some ([⟨.refusedFull, 0#16, 0#32, []⟩], 39, 1#3, true) := by decide +kernel

/-- 7.2: `AVAIL 39` on a fresh block gives 1. -/
theorem test_avail_wraps : (next? (exec (.avail 39#16) State.reset)).map State.responses =
    some [⟨.ok, 0#16, 1#32, []⟩] := by decide +kernel

theorem test_avail_badOperand : (next? (exec (.avail 40#16) State.reset)).map State.responses =
    some [⟨.badOperand, 0#16, 0#32, []⟩] := by decide +kernel

/-- 3.2 step 12. -/
theorem test_peek32_wraps : (next? (exec (.peek32 38#16) wrapped)).map State.responses =
    some [⟨.ok, 0#16, 0x02A1A027#32, []⟩] := by decide +kernel

/-- 3.2 step 9: the byte nothing has written is open, the others are not. -/
theorem test_peek32_unwritten : ∃ t r, exec (.peek32 38#16) pushed39 = .next t ∧ t.responses = [r] ∧
    r.val.extractLsb' 0 8 = 0x27#8 ∧ r.val.extractLsb' 16 16 = 0x0201#16 := by
  refine ⟨_, _, rfl, rfl, ?_, ?_⟩
  all_goals
    simp only [Response.value, State.peekU32, State.memRead, State.peekBytes]
    show BitVec.extractLsb' _ _ (BitVec.ofNat 32 (uLe [0x27#8, Config.initialByte 0 39, 0x01#8, 0x02#8])) = _
    generalize Config.initialByte 0 39 = x
    revert x; decide +kernel

/-- 3.2 step 13. -/
theorem test_peekb_wraps : (next? (exec (.peekb 37#16 5#16) wrapped)).map State.responses =
    some [⟨.ok, 0#16, 0#32, [0x26#8, 0x27#8, 0xA0#8, 0xA1#8, 0x02#8]⟩] := by decide +kernel

/-- 7.2: `PEEKB 0, 0` is legal. -/
theorem test_peekb_none : (next? (exec (.peekb 0#16 0#16) State.reset)).map State.responses =
    some [⟨.ok, 0#16, 0#32, []⟩] := by decide +kernel

/-- 3.2 step 17. -/
theorem test_advance_beyond : (next? (exec (.advance 65535#16) wrapped)).map seen =
    some ⟨[⟨.ok, 0#16, 0#32, []⟩], 1, 13, 1#3, []⟩ := by decide +kernel

/-- 2.1, the check value; 2.3. -/
theorem test_checksum_check_value : (next? (exec (.checksum 9#16
      [0x31#8, 0x32#8, 0x33#8, 0x34#8, 0x35#8, 0x36#8, 0x37#8, 0x38#8, 0x39#8]) State.reset)).map State.responses =
    some [⟨.ok, 0#16, 0x4B37#32, []⟩] := by decide +kernel

theorem test_checksum_length : (next? (exec (.checksum 2#16 [0xAA#8]) State.reset)).map State.responses =
    some [⟨.badOperand, 0#16, 0#32, []⟩] := by decide +kernel

/-- 4.2. -/
theorem test_encode_fc : (next? (exec (.encode 1#16 pc) State.reset)).map (fun t => (t.responses, t.txlog)) =
    some ([⟨.ok, 0#16, 15#32, fc⟩], []) := by decide +kernel

theorem test_encode_bad_id : (next? (exec (.encode 2#16 pc) State.reset)).map State.responses =
    some [⟨.badOperand, 0#16, 0#32, []⟩] := by decide +kernel

theorem test_send_fa : (next? (exec (.send 0#16 pa) State.reset)).map (fun t => (t.responses, t.txlog)) =
    some ([⟨.ok, 0#16, 18#32, fa⟩], [fa]) := by decide +kernel

theorem test_send_bad_size : (next? (exec (.send 0#16 [1#8, 2#8, 3#8]) State.reset)).map
    (fun t => (t.responses, t.txlog)) = some ([⟨.badOperand, 0#16, 0#32, []⟩], []) := by decide +kernel

/-- 7.3 steps 1, 2, 6. -/
theorem test_rdStatus : (next? (exec .rdStatus (ring [] 39 31 5#3))).map seen =
    some ⟨[⟨.ok, 0#16, 5#32, []⟩], 39, 31, 5#3, []⟩ := by decide +kernel

theorem test_clrStatus : (next? (exec (.clrStatus 1#3) (ring [] 39 31 5#3))).map seen =
    some ⟨[⟨.ok, 0#16, 0#32, []⟩], 39, 31, 4#3, []⟩ := by decide +kernel

theorem test_rdCursors : (next? (exec .rdCursors (ring [] 39 31 0#3))).map State.responses =
    some [⟨.ok, 0#16, 0x0027001F#32, []⟩] := by decide +kernel

/-- P3 step 8: a corrupted FA, then FC across the wrap, in one call. -/
theorem test_tryRead_reject_then_frame : (next? (exec .tryRead
      { ring [] 18 18 0#3 with rxq := flipBit fa 10 2 ++ fc })).map seen =
    some ⟨[⟨.ok, 1#16, 3#32, pc⟩], 11, 11, 2#3, []⟩ := by decide +kernel

/-- Section 5, the corner cases H1 to H12; P5 step 2, the overrun guard; P8 step 2, the minimum capacity. -/
theorem test_tryRead_corner_cases :
    [(Config.tv, hdr 2 0 0x12 0 ++ pad), (.tv, hdr 0 0 0x28 0 ++ pad), (.tv, hdr 0 0 0x27 0 ++ pad),
     (.tv, hdr 0 0 0x0B 0 ++ pad), (.tv, hdr 0 0 0 0 ++ pad), (.tv, hdr 0 1 0x12 0 ++ pad),
     (.tv, hdr 1 0 0x0C 0 ++ emptyCrc), (.tv, hdr 1 0 0x0C 0 ++ [0xFF#8, 0xFF#8, 0#8, 1#8]),
     (.tv, hdr 0 0 0x12 0), (.tv, hdr 0 0 0x12 0 ++ [1#8]),
     (.tv, hdr 1 0 0x11 0 ++ [0x10#8, 0x20#8, 0x30#8, 0x40#8, 0x50#8, 0xDF#8, 0xF0#8, 0#8, 0#8]), (.tv, []),
     (.tv, List.replicate 45 0x55#8), (tv13, hdr 0 0 0x0C 0 ++ emptyCrc ++ hdr 0 0 0x0C 0 ++ emptyCrc)].map
      (fun x => (next? (exec .tryRead (fresh x.1 x.2))).map seen) =
    [some ⟨noFrame, 18, 10, 4#3, []⟩, some ⟨noFrame, 18, 10, 4#3, []⟩, some ⟨noFrame, 18, 0, 0#3, []⟩,
     some ⟨noFrame, 18, 10, 4#3, []⟩, some ⟨noFrame, 18, 10, 4#3, []⟩, some ⟨noFrame, 18, 10, 4#3, []⟩,
     some ⟨[⟨.ok, 1#16, 0#32, []⟩], 12, 12, 0#3, []⟩, some ⟨noFrame, 12, 12, 2#3, []⟩,
     some ⟨noFrame, 8, 0, 0#3, []⟩, some ⟨noFrame, 9, 0, 0#3, []⟩,
     some ⟨[⟨.ok, 1#16, 5#32, [0x10#8, 0x20#8, 0x30#8, 0x40#8, 0x50#8]⟩], 17, 17, 0#3, []⟩,
     some ⟨noFrame, 0, 0, 0#3, []⟩, some ⟨noFrame, 39, 31, 5#3, List.replicate 6 0x55#8⟩,
     some ⟨[⟨.ok, 0#16, 0#32, []⟩], 12, 12, 1#3, hdr 0 0 0x0C 0 ++ emptyCrc⟩] := by decide +kernel

/-! ## Witnesses: for each statement with hypotheses, a state and operands that meet them -/

theorem reset_inv : State.reset.Inv := inv_of_check (by decide)

theorem construct_inv {c : Config} (h : c.wf) (p : Nat) : (State.construct c p).Inv := by
  have h' := h.1
  exact ⟨h, by show 0 < c.capacity; omega, by show 0 < c.capacity; omega, List.Pairwise.nil,
    fun _ hc => (List.not_mem_nil hc).elim, rfl, by show 0 < c.capacity; omega, by simp [State.construct]⟩

theorem fresh_inv {c : Config} (h : c.wf) (rx : List Byte) : (fresh c rx).Inv :=
  have i := construct_inv h 0
  ⟨h, i.wcur_lt, i.rcur_lt, i.buf_wf, i.buf_lt, rfl, i.avail_lt, i.body_le⟩

/-- An empty block whose cursors are near the end of the storage, so that what arrives next wraps. -/
def empty37 (rx : List Byte) : State := { ring [] 37 37 0#3 with rxq := rx }

theorem empty37_inv (rx : List Byte) : (empty37 rx).Inv :=
  have i : (ring [] 37 37 0#3).Inv := inv_of_check (by decide)
  ⟨i.cfg_wf, i.wcur_lt, i.rcur_lt, i.buf_wf, i.buf_lt, rfl, i.avail_lt, i.body_le⟩

theorem witness_ConstructionMeetsTheInvariant : Config.tv.wf ∧ tv13.wf := by decide

theorem witness_DecodedCommandIsTheEncodedOne : decode 0x04FFFF0005#40 [] = .ok (.peekb 0xFFFF#16 5#16) := by
  decide

/-- Each clause of the reserved-encoding test alone, next to the legal value beside it. -/
theorem witness_ReservedEncodingsAreExactlyThoseOfTheTable :
    opField 0x0600000000#40 ∉ [0x01#8, 0x02#8, 0x03#8, 0x04#8, 0x05#8, 0x10#8, 0x20#8, 0x21#8, 0x30#8, 0xF0#8, 0xF1#8, 0xF2#8] ∧
    (decode 0x0100010000#40 []).toOption = none ∧ (decode 0x0100000000#40 []).toOption = some (.push 0#8) ∧
    (decode 0x0200000001#40 []).toOption = none ∧ (decode 0x02FFFF0000#40 []).toOption = some (.avail 0xFFFF#16) ∧
    (decode 0x0100000100#40 []).toOption = none ∧ (decode 0x01000000FF#40 []).toOption = some (.push 0xFF#8) ∧
    (decode 0xF100000008#40 []).toOption = none ∧ (decode 0xF100000007#40 []).toOption = some (.clrStatus 7#3) ∧
    (decode 0x3000000000#40 [0#8]).toOption = none ∧ (decode 0x1000000000#40 [0#8]).isOk = true := by decide

theorem witness_StepRunsTheDecodedOperation : ∃ (w : CmdWord) (din : List Byte) (i : Instr) (s : State) (rest : List Input),
    decode w din = .ok i ∧ s.cfg.wf ∧ s.inputs = .command w din :: rest :=
  ⟨0x2100010000#40, pc, _, commanded .reset 0x2100010000#40 pc, [], rfl, by decide, rfl⟩

theorem witness_ReservedCommandIsAnsweredBadCmd : ∃ (w : CmdWord) (din : List Byte) (e : DecodeError) (s : State) (rest : List Input),
    decode w din = .error e ∧ s.cfg.wf ∧ s.inputs = .command w din :: rest :=
  ⟨0x3100000000#40, [], _, commanded .reset 0x3100000000#40 [], [], rfl, by decide, rfl⟩

theorem witness_IllegalOperandsAreAnsweredBadOperand :
    (Instr.peekb 39#16 40#16).wellFormed State.reset.cfg = false ∧
    (Instr.peekb 39#16 39#16).wellFormed State.reset.cfg = true ∧
    ∃ t, exec (.peekb 39#16 39#16) State.reset = .next t := ⟨by decide, by decide, _, rfl⟩

theorem witness_ArrivalsAppendAndIdleStepsChangeNothing :
    (∃ s : State, s.cfg.wf ∧ s.inputs = .arrive fa :: []) ∧ ∃ s : State, s.cfg.wf ∧ s.inputs = [] :=
  ⟨⟨{ State.reset with inputs := [.arrive fa] }, by decide, rfl⟩, ⟨.reset, by decide, rfl⟩⟩

/-- Full (39 unread) and one below full. -/
theorem witness_PushStoresAtTheWriteCursorOrRefuses :
    pushed39.availableFrom pushed39.rcur = pushed39.cfg.capacity - 1 ∧
    (ring [] 38 0 0#3).availableFrom (ring [] 38 0 0#3).rcur ≠ (ring [] 38 0 0#3).cfg.capacity - 1 ∧
    (255#16).toNat < 256 ∧ ¬ (256#16).toNat < 256 := by decide

theorem witness_AvailCountsForwardToTheWriteCursor :
    State.reset.cfg.capacity ≤ (40#16).toNat ∧ (39#16).toNat < State.reset.cfg.capacity ∧
    State.reset.wcur < State.reset.cfg.capacity := by decide

theorem witness_Peek32ReadsFourBytesLittleEndian :
    wrapped.cfg.capacity ≤ (40#16).toNat ∧ (39#16).toNat < wrapped.cfg.capacity := by decide

theorem witness_PeekbCopiesBytesInStreamOrder :
    wrapped.cfg.capacity ≤ (40#16).toNat ∧ (39#16).toNat < wrapped.cfg.capacity ∧
    (0#16).toNat < wrapped.cfg.capacity := by decide

theorem witness_AdvanceMovesTheReadCursor : (∃ t, exec (.advance 3#16) wrapped = .next t) ∧ wrapped.Inv ∧
    (3#16).toNat ≤ wrapped.unread ∧ ¬ (4#16).toNat ≤ wrapped.unread :=
  ⟨⟨_, rfl⟩, inv_of_check (by decide), by decide, by decide⟩

theorem witness_ChecksumCommandReturnsTheChecksum :
    (3#16).toNat = pc.length ∧ (2#16).toNat ≠ pc.length ∧ (0#16).toNat = ([] : List Byte).length := by decide

theorem witness_SingleBitChangeAlwaysChangesTheCrc : 5 < pa.length ∧ 7 < 8 ∧ flipBit pa 5 7 ≠ pa := by decide

theorem witness_FrameHasTheFieldsOfTheWireFormat : 12 + pa.length ≤ 65535 ∧ 12 + ([] : List Byte).length ≤ 65535 := by
  decide

/-- Both catalog entries, and both ways to be refused, for ENCODE and SEND alike. -/
theorem witness_EncodeReturnsTheFrame : pa.length = State.reset.cfg.aeroSize ∧
    pc.length = State.reset.cfg.controlSize ∧
    ¬ ((2#16 = 0#16 ∧ pc.length = State.reset.cfg.aeroSize) ∨ (2#16 = 1#16 ∧ pc.length = State.reset.cfg.controlSize)) ∧
    ¬ ((0#16 = 0#16 ∧ pc.length = State.reset.cfg.aeroSize) ∨ (0#16 = 1#16 ∧ pc.length = State.reset.cfg.controlSize)) := by
  decide

theorem witness_SendWritesTheFrameOnce :
    (0#16 = 0#16 ∧ pa.length = State.reset.cfg.aeroSize) ∧ ¬ (0x0100#16 = 0#16 ∨ 0x0100#16 = 1#16) := by decide

theorem witness_ClrStatusClearsTheMaskedFlags : (7#16).toNat < 8 ∧ ¬ (8#16).toNat < 8 := by decide

theorem witness_RdCursorsReturnsBothCursors : wrapped.Inv := inv_of_check (by decide)

theorem witness_TryReadAlwaysCompletes : (empty37 fa).Inv ∧ (fresh tv13 fa).Inv :=
  ⟨empty37_inv fa, fresh_inv (by decide) fa⟩

/-- More bytes at the transport than there is room for. -/
theorem witness_DrainMovesTheOldestBytesThatFit : ∃ (s : State) (k : Nat), s.Inv ∧
    k = min s.rxq.length (s.cfg.capacity - 1 - s.unread) ∧ k = 39 ∧ s.rxq.length = 45 :=
  ⟨empty37 (List.replicate 45 0x55#8), 39, empty37_inv _, by decide +kernel, rfl, by decide⟩

theorem witness_TryReadIsTheDrainThenTheSearch : (empty37 fa).Inv := empty37_inv fa

/-- A block under TV with bytes from index 0 on, all of them unread. -/
def holding (l : List Byte) : State := ring l l.length 0 0#3

/-- Each of the four ways to resynchronise, at its boundary value, and with the least count. -/
theorem witness_ResynchronisationCostsOneByte :
    [hdr 0 0 12 0 ++ [0#8], hdr 2 0 12 0 ++ [0#8], hdr 0 0 40 0 ++ [0#8], hdr 0 0 11 0 ++ [0#8]].all
      (fun l => invCheck (holding l) && decide ((holding l).rxq = [] ∧ 8 < (holding l).unread)) = true ∧
    (holding (0#8 :: hdr 0 0 12 0)).peekU32 0 ≠ Config.tv.preamble ∧
    2 ≤ ((holding (hdr 2 0 12 0 ++ [0#8])).peekU16 4).toNat ∧
    Config.tv.capacity ≤ ((holding (hdr 0 0 40 0 ++ [0#8])).peekU16 6).toNat ∧
    ((holding (hdr 0 0 11 0 ++ [0#8])).peekU16 6).toNat < 12 := by decide +kernel

theorem witness_IncompleteFrameIsLeftInPlace :
    (holding (hdr 0 0 18 0)).Inv ∧ (holding (hdr 0 0 18 0)).unread ≤ 8 ∧
    (holding (fa.take 17)).Inv ∧ (holding (fa.take 17)).peekU32 0 = Config.tv.preamble ∧
    ((holding (fa.take 17)).peekU16 4).toNat < 2 ∧ 12 ≤ ((holding (fa.take 17)).peekU16 6).toNat ∧
    ((holding (fa.take 17)).peekU16 6).toNat < Config.tv.capacity ∧
    (holding (fa.take 17)).unread < ((holding (fa.take 17)).peekU16 6).toNat :=
  ⟨inv_of_check (by decide), by decide, inv_of_check (by decide), by decide +kernel, by decide +kernel,
   by decide +kernel, by decide +kernel, by decide +kernel⟩

theorem witness_GoodFrameIsConsumedAndDelivered : ∃ (s : State) (len : Nat) (body : List Byte), s.Inv ∧ s.rxq = [] ∧
    s.peekU32 s.rcur = s.cfg.preamble ∧ (s.peekU16 (s.rcur + 4)).toNat < 2 ∧
    len = (s.peekU16 (s.rcur + 6)).toNat ∧ 12 ≤ len ∧ len ≤ s.unread ∧
    body = s.peekBytes (s.rcur + 8) (len - 12) ∧ s.peekU32 (s.rcur + len - 4) = (crc16 body).setWidth 32 :=
  ⟨holding fc, 15, pc, inv_of_check (by decide), rfl, by decide +kernel, by decide +kernel, by decide +kernel,
   by decide, by decide, by decide +kernel, by decide +kernel⟩

theorem witness_RejectedFrameCostsTheWholeFrame : ∃ (s : State) (len : Nat), s.Inv ∧ s.rxq = [] ∧
    s.peekU32 s.rcur = s.cfg.preamble ∧ (s.peekU16 (s.rcur + 4)).toNat < 2 ∧
    len = (s.peekU16 (s.rcur + 6)).toNat ∧ 12 ≤ len ∧ len ≤ s.unread ∧
    s.peekU32 (s.rcur + len - 4) ≠ (crc16 (s.peekBytes (s.rcur + 8) (len - 12))).setWidth 32 :=
  ⟨holding (flipBit fc 14 7), 15, inv_of_check (by decide), rfl, by decide +kernel, by decide +kernel,
   by decide +kernel, by decide, by decide, by decide +kernel⟩

theorem witness_StateMachineAgreesWithTheOneFunction : (empty37 (flipBit fa 10 2 ++ fc)).Inv := empty37_inv _

theorem again_of {s : State} (h : (match s.searchPass with | .again _ => true | .done _ _ => false) = true) :
    ∃ t, s.searchPass = .again t := by
  cases e : s.searchPass with
  | again t => exact ⟨t, rfl⟩
  | done t r => simp [e] at h

theorem witness_EveryPassLowersTheUnreadCount :
    (∃ s t : State, s.Inv ∧ s.searchPass = .again t ∧ s.unread = 9) ∧
    ∃ s t : State, s.Inv ∧ s.searchPass = .again t ∧ s.unread = 15 := by
  obtain ⟨t, ht⟩ := again_of (s := holding (0#8 :: hdr 0 0 12 0)) (by decide +kernel)
  obtain ⟨u, hu⟩ := again_of (s := holding (flipBit fc 8 0)) (by decide +kernel)
  exact ⟨⟨_, t, inv_of_check (by decide), ht, by decide⟩, ⟨_, u, inv_of_check (by decide), hu, by decide⟩⟩

theorem witness_TryReadIsAFunctionOfTheByteStream : (empty37 (fc ++ fa)).Inv := empty37_inv _

theorem witness_DeliveredFrameWasInTheStream : ∃ (s t : State) (r : Response), s.Inv ∧ exec .tryRead s = .next t ∧
    t.responses = s.responses ++ [r] ∧ r.code = .ok := by
  obtain ⟨t, ht, hr⟩ := next_of_any (o := exec .tryRead (empty37 fc))
    (p := fun t => t.responses == [⟨.ok, 1#16, 3#32, pc⟩]) (by decide +kernel)
  exact ⟨_, t, _, empty37_inv fc, ht, eq_of_beq hr, rfl⟩

theorem witness_NoFrameOnlyWhenNothingIsDecodable :
    [fa.take 8, fa.take 9, fa.take 17].all (fun l => (next? (exec .tryRead (empty37 l))).any fun t =>
      t.responses == (empty37 l).responses ++ [⟨.noFrame, 0#16, 0#32, []⟩]) = true ∧ ∀ l, (empty37 l).Inv :=
  ⟨by decide +kernel, empty37_inv⟩

theorem witness_FullBufferNeverStalls : ∃ s t : State, s.Inv ∧ s.drain.unread = s.cfg.capacity - 1 ∧
    exec .tryRead s = .next t := by
  obtain ⟨t, ht, -⟩ := next_of_any (o := exec .tryRead (empty37 (List.replicate 45 0x55#8)))
    (p := fun _ => true) (by decide +kernel)
  exact ⟨_, t, empty37_inv _, by decide +kernel, ht⟩

theorem witness_RoundTripThroughEncodeAndTryRead : ∃ (s e : State) (m : MessageId) (payload : List Byte), s.Inv ∧
    s.unread = 0 ∧ s.rxq = [] ∧ payload.length = s.cfg.payloadSize m ∧ e.cfg = s.cfg :=
  ⟨empty37 [], .reset, .aeroData, pa, empty37_inv [], by decide, rfl, by decide, rfl⟩

/-- Two nodes with different capacities and catalog sizes. -/
theorem witness_SentFrameIsDeliveredAtThePeer : ∃ (a b : State) (m : MessageId) (payload : List Byte), b.Inv ∧
    a.cfg.wf ∧ a.cfg.preamble = b.cfg.preamble ∧ payload.length = a.cfg.payloadSize m ∧
    12 + payload.length < b.cfg.capacity ∧ b.unread = 0 ∧ b.rxq = [] ∧ a.cfg ≠ b.cfg :=
  ⟨fresh tv13 [], empty37 [], .controlParams, [], empty37_inv [], by decide, rfl, rfl, by decide, by decide, rfl,
   by decide⟩

theorem witness_TwoFramesTakeTwoReads : ∃ (s : State) (m m' : MessageId) (p p' : List Byte), s.Inv ∧ s.unread = 0 ∧
    s.rxq = frame s.cfg m.number p ++ frame s.cfg m'.number p' ∧ 24 + p.length + p'.length < s.cfg.capacity :=
  ⟨empty37 (frame .tv 0#16 pa ++ frame .tv 1#16 pc), .aeroData, .controlParams, pa, pc, empty37_inv _,
   by decide, rfl, by decide⟩

/-- Cut at the least, at the 8th byte, and before the last. -/
theorem witness_PartialDeliveryWaitsForTheWholeFrame : ∀ k ∈ [0, 8, 9, 17], ∃ (s : State) (first rest : List Byte),
    s.Inv ∧ s.unread = 0 ∧ 12 + pa.length < s.cfg.capacity ∧ first ++ rest = frame s.cfg MessageId.aeroData.number pa ∧
    rest ≠ [] ∧ s.rxq = first ∧ first.length = k := by
  intro k hk
  refine ⟨empty37 ((frame .tv 0#16 pa).take k), (frame .tv 0#16 pa).take k, (frame .tv 0#16 pa).drop k,
    empty37_inv _, rfl, (by decide : 12 + 6 < 40), List.take_append_drop _ _, ?_, rfl, ?_⟩ <;>
  · simp only [List.mem_cons, List.not_mem_nil, or_false] at hk
    rcases hk with rfl | rfl | rfl | rfl <;> decide +kernel

theorem witness_CorruptFrameIsConsumedAndRejected : ∀ i ∈ [8, 17], ∃ (s : State) (k : Nat), s.Inv ∧ s.unread = 0 ∧
    12 + pa.length < s.cfg.capacity ∧ 8 ≤ i ∧ i < 12 + pa.length ∧ k < 8 ∧
    s.rxq = flipBit (frame s.cfg MessageId.aeroData.number pa) i k := by
  intro i hi
  refine ⟨empty37 (flipBit (frame .tv 0#16 pa) i 7), 7, empty37_inv _, rfl, (by decide : 12 + 6 < 40), ?_, ?_, by decide, rfl⟩ <;>
  · simp only [List.mem_cons, List.not_mem_nil, or_false] at hi
    rcases hi with rfl | rfl <;> decide

/-- No noise, and noise with a near-preamble in it. -/
theorem witness_NoiseBeforeAFrameIsSkipped : ∀ noise ∈ [[], [0x00#8, 0xEF#8, 0xBE#8, 0xAD#8, 0x11#8]],
    ∃ s : State, s.Inv ∧ s.unread = 0 ∧ s.rxq = noise ++ frame s.cfg MessageId.aeroData.number pa ∧
    noise.length + 12 + pa.length < s.cfg.capacity ∧
    ∀ j, j < noise.length → (s.rxq.drop j).take 4 ≠ leBytes 4 s.cfg.preamble := by
  intro noise hn
  refine ⟨empty37 (noise ++ frame .tv 0#16 pa), empty37_inv _, rfl, rfl, ?_, ?_⟩ <;>
  · simp only [List.mem_cons, List.not_mem_nil, or_false] at hn
    rcases hn with rfl | rfl <;> decide +kernel

theorem witness_OperationsThatStoreNothingFrame :
    [Instr.avail 0#16, .peek32 0#16, .peekb 0#16 3#16, .advance 3#16, .checksum 3#16 pc, .encode 1#16 pc,
     .send 1#16 pc, .rdStatus, .clrStatus 5#3, .rdCursors].all (fun i => (next? (exec i wrapped)).isSome) = true := by
  decide +kernel

theorem witness_PushFrame : (∃ t, exec (.push 1#8) pushed39 = .next t) ∧ pushed39.full ∧ pushed39.Inv ∧
    pushed39.inUnread 38 ∧ (∃ t, exec (.push 1#8) wrapped = .next t) ∧ ¬ wrapped.full ∧ wrapped.Inv ∧ wrapped.inUnread 0 :=
  ⟨⟨_, rfl⟩, by decide, inv_of_check (by decide), ⟨38, by decide, by decide⟩, ⟨_, rfl⟩, by decide,
   inv_of_check (by decide), ⟨2, by decide, by decide⟩⟩

theorem witness_TryReadFrame : ∃ s t : State, s.Inv ∧ exec .tryRead s = .next t ∧ s.drainCount = 33 := by
  obtain ⟨t, ht, -⟩ := next_of_any (o := exec .tryRead (empty37 (fa ++ fc))) (p := fun _ => true) (by decide +kernel)
  exact ⟨_, t, empty37_inv _, ht, by decide⟩

theorem witness_StepKeepsTheInvariant : ∃ s t : State, s.Inv ∧ step s = .next t := by
  refine ⟨commanded .reset 0x0100000041#40 [], _, inv_of_check (by decide), rfl⟩

theorem witness_EveryStepGoesOnUnlessTheConfigurationIsInvalid : State.reset.Inv ∧
    ¬ (fresh { Config.tv with capacity := 12 } []).cfg.wf ∧ State.reset.cfg.wf := ⟨reset_inv, by decide, by decide⟩

/-- The next input an ADVANCE of exactly the unread count. -/
theorem witness_UnreadBytesStayWritten : ∃ s t : State, s.Inv ∧ s.UnreadWritten ∧ s.advanceWithinUnread ∧
    s.unread = 15 ∧ step s = .next t := by
  refine ⟨commanded (holding fc) 0x050000000F#40 [], _, inv_of_check (by decide), ?_, ?_, by decide, rfl⟩
  · intro k hk
    have : ∀ k, k < 15 → (holding fc).written ((0 + k) % 40) := by decide +kernel
    exact this k hk
  · intro w din rest n hi hd
    obtain ⟨⟨rfl, rfl⟩, -⟩ : (0x050000000F#40 = w ∧ [] = din) ∧ [] = rest := by
      simpa [commanded, State.offerCommand, holding, ring, State.construct] using hi
    have : decode 0x050000000F#40 [] = .ok (.advance 15#16) := by decide
    rw [this] at hd
    cases hd
    decide

theorem witness_ConfigurationNeverChanges : ∃ s t : State, step s = .next t := ⟨.reset, _, rfl⟩

theorem witness_EachRegisterHasItsWriters :
    (next? (exec (.push 1#8) wrapped)).any (fun t => t.buf != wrapped.buf && t.wcur != wrapped.wcur) = true ∧
    (next? (exec (.advance 1#16) wrapped)).any (fun t => t.rcur != wrapped.rcur) = true ∧
    (next? (exec (.clrStatus 1#3) wrapped)).any (fun t => t.status != wrapped.status) = true ∧
    (next? (exec (.send 1#16 pc) wrapped)).any (fun t => t.txlog != wrapped.txlog) = true ∧
    (next? (exec .tryRead (empty37 fa))).any (fun t => t.rxq != fa) = true := by decide +kernel

theorem witness_FlagsAreStickyUntilCleared : ∃ (i : Instr) (s t : State) (j : Nat), exec i s = .next t ∧
    s.status.getLsbD j = true ∧ t.status.getLsbD j = false :=
  ⟨.clrStatus 4#3, ring [] 0 0 7#3, _, 2, rfl, by decide, by decide⟩

theorem witness_FlagsChangeNoBehaviour : ∃ (i : Instr) (s t : State), i ≠ .rdStatus ∧ exec i s = .next t := by
  obtain ⟨t, ht, -⟩ := next_of_any (o := exec .tryRead (empty37 fa)) (p := fun _ => true) (by decide +kernel)
  exact ⟨_, _, t, by decide, ht⟩

theorem witness_LatchAndFsmCarryNothing : ∃ (i : Instr) (s t : State), exec i s = .next t :=
  ⟨.push 1#8, .reset, _, rfl⟩

theorem witness_EveryCommandHasExactlyOneResponse : ∃ (s : State) (w : CmdWord) (din : List Byte) (rest : List Input),
    s.Inv ∧ s.inputs = .command w din :: rest :=
  ⟨commanded .reset 0x3000000000#40 [], _, _, _, inv_of_check (by decide), rfl⟩

/-- All 40 bytes written, three of them unread across the end of the storage, and the same turned by 3. -/
def turn (d : Nat) : State :=
  ring ((List.range 40).map fun i => BitVec.ofNat 8 ((i + 40 - d) % 40 + 1)) ((1 + d) % 40) ((38 + d) % 40) 2#3

theorem witness_PositionIndependence : ∃ (i : Instr) (s t s' : State), s.Inv ∧ t.Inv ∧ Rotated 3 s t ∧
    i.wellFormed s.cfg = true ∧ exec i s = .next s' := by
  refine ⟨.peek32 38#16, turn 0, turn 3, _, inv_of_check (by decide +kernel), inv_of_check (by decide +kernel),
    ⟨rfl, rfl, rfl, ?_, rfl, rfl, rfl⟩, by decide, rfl⟩
  show ∀ i, i < 40 → (turn 3).readByte ((i + 3) % 40) = (turn 0).readByte i
  decide +kernel

theorem witness_LawsOfTheCursorArithmetic : wrapped.Inv ∧ 39 < wrapped.cfg.capacity ∧
    39 ≠ (wrapped.storeByte 0#8).wcur ∧ 3 ≤ wrapped.unread :=
  ⟨inv_of_check (by decide), by decide, by decide, by decide⟩

end Sys2Proof.Tests
end

section
/-! PROOFS. What the step makes of an offered command (`00_scope.md` R13, R8; log entry 8). -/

namespace Sys2Proof.Machine

variable {s : State} {rest : List Input} {w : CmdWord} {din : List Byte} {i : Instr}

/-- Taking the first input leaves the rest of them, in the form in which the statements write it. -/
theorem State.dropInput_of_inputs_cons {item : Input} (hinputs : s.inputs = item :: rest) :
    s.dropInput = { s with inputs := rest } := by
  rw [State.dropInput, hinputs, List.tail_cons]

theorem State.nextOffer_of_decode_ok (hinputs : s.inputs = .command w din :: rest)
    (hdecode : decode w din = .ok i) : s.nextOffer = .operation i s.dropInput := by
  simp only [State.nextOffer, hinputs, hdecode]

theorem step_of_nextOffer_operation {t : State} (hwf : s.cfg.wf) (hoffer : s.nextOffer = .operation i t) :
    step s = exec i t := by
  simp only [step, if_pos hwf, hoffer]

theorem runsAs_of_decode_ok (hdecode : decode w din = .ok i) : RunsAs w din i := by
  intro s rest hwf hinputs
  have hoffer : s.nextOffer = .operation i s.dropInput := State.nextOffer_of_decode_ok hinputs hdecode
  calc step s = exec i s.dropInput := step_of_nextOffer_operation hwf hoffer
    _ = exec i { s with inputs := rest } := by rw [State.dropInput_of_inputs_cons hinputs]

/-- Settles O7: the command is offered as the operation it decodes to, and the step of a valid
configuration runs the operation it is offered. -/
theorem stepRunsTheDecodedOperation : Obligations.StepRunsTheDecodedOperation :=
  fun _ _ _ hdecode => runsAs_of_decode_ok hdecode

end Sys2Proof.Machine
end

section
/-! PROOFS. What an operation other than TRY_READ does, said once for the state it runs in and for every state
that differs from it in STATUS, the latch and `fsm` only. -/

namespace Sys2Proof.Machine

variable {s : State} {i : Instr} {f : State → State}

section
variable {id : Half} {din : List Byte} {m : MessageId}

theorem exec_encode_of_illegal (hm : s.payload? id din = none) :
    exec (.encode id din) s = .next (s.respond (Response.bare .badOperand)) := by
  simp only [exec, execEncode, hm, State.refuseOperand]

theorem exec_encode_of_legal (hm : s.payload? id din = some m) :
    exec (.encode id din) s = .next (s.respond (frameResponse s.cfg m (frame s.cfg id din))) := by
  simp only [exec, execEncode, hm]

theorem exec_send_of_illegal (hm : s.payload? id din = none) :
    exec (.send id din) s = .next (s.respond (Response.bare .badOperand)) := by
  simp only [exec, execSend, hm, State.refuseOperand]

theorem exec_send_of_legal (hm : s.payload? id din = some m) :
    exec (.send id din) s = .next
      ((s.transportWrite (frame s.cfg id din)).respond (frameResponse s.cfg m (frame s.cfg id din))) := by
  simp only [exec, execSend, hm]

end

/-- The effects of the operations other than TRY_READ: which update of the state an operation run in `s` is. -/
inductive Effect (s : State) : Instr → (State → State) → Prop
  | reply (i : Instr) (r : Response) : Effect s i fun u => u.respond r
  | refuse (v : Byte) (hfull : s.full) :
      Effect s (.push v) fun u => (u.raise .overrun).respond (Response.bare .refusedFull)
  | store (v : Byte) (hroom : ¬ s.full) :
      Effect s (.push v) fun u => (u.storeByte v).respond (Response.bare .ok)
  | advance (n : Half) :
      Effect s (.advance n) fun u => (u.advanceRead n.toNat).respond (Response.bare .ok)
  | write (id : Half) (din bytes : List Byte) (r : Response) :
      Effect s (.send id din) fun u => (u.transportWrite bytes).respond r
  | clear (mask : BitVec 3) :
      Effect s (.clrStatus mask) fun u => (u.clearFlags mask).respond (Response.bare .ok)

/-- The effect of an operation other than TRY_READ is chosen without a look at the latch, at `fsm` or, but for
RD_STATUS, at STATUS. -/
theorem exec_effect (s : State) (hi : i ≠ .tryRead) :
    ∃ f, Effect s i f ∧ ∀ x l q, (i = .rdStatus → x = s.status) →
      exec i { s with status := x, latch := l, fsm := q } =
        .next (f { s with status := x, latch := l, fsm := q }) := by
  cases i with
  | push v =>
    by_cases hfull : s.full
    · exact ⟨_, .refuse v hfull, fun _ _ _ _ => if_pos hfull⟩
    · exact ⟨_, .store v hfull, fun _ _ _ _ => if_neg hfull⟩
  | avail pos =>
    by_cases hpos : s.posLegal pos
    · exact ⟨_, .reply _ (.value (BitVec.ofNat 32 (s.availableFrom pos.toNat))), fun _ _ _ _ => if_pos hpos⟩
    · exact ⟨_, .reply _ (.bare .badOperand), fun _ _ _ _ => if_neg hpos⟩
  | peek32 pos =>
    by_cases hpos : s.posLegal pos
    · exact ⟨_, .reply _ (.value (s.peekU32 pos.toNat)), fun _ _ _ _ => if_pos hpos⟩
    · exact ⟨_, .reply _ (.bare .badOperand), fun _ _ _ _ => if_neg hpos⟩
  | peekb pos n =>
    by_cases hpos : s.posLegal pos ∧ s.countLegal n
    · exact ⟨_, .reply _ (.bytes (s.peekBytes pos.toNat n.toNat)), fun _ _ _ _ => if_pos hpos⟩
    · exact ⟨_, .reply _ (.bare .badOperand), fun _ _ _ _ => if_neg hpos⟩
  | advance n => exact ⟨_, .advance n, fun _ _ _ _ => rfl⟩
  | checksum len din =>
    by_cases hlen : lengthLegal len din
    · exact ⟨_, .reply _ (.value (checksum din)), fun _ _ _ _ => if_pos hlen⟩
    · exact ⟨_, .reply _ (.bare .badOperand), fun _ _ _ _ => if_neg hlen⟩
  | encode id din =>
    cases hm : s.payload? id din with
    | none => exact ⟨_, .reply _ (.bare .badOperand), fun _ _ _ _ => exec_encode_of_illegal hm⟩
    | some m =>
      exact ⟨_, .reply _ (frameResponse s.cfg m (frame s.cfg id din)), fun _ _ _ _ => exec_encode_of_legal hm⟩
  | send id din =>
    cases hm : s.payload? id din with
    | none => exact ⟨_, .reply _ (.bare .badOperand), fun _ _ _ _ => exec_send_of_illegal hm⟩
    | some m =>
      exact ⟨_, .write id din (frame s.cfg id din) (frameResponse s.cfg m (frame s.cfg id din)),
        fun _ _ _ _ => exec_send_of_legal hm⟩
  | tryRead => exact absurd rfl hi
  | rdStatus =>
    refine ⟨_, .reply _ (.value s.statusWord), fun x l q hx => ?_⟩
    rw [hx rfl]; rfl
  | clrStatus mask => exact ⟨_, .clear mask, fun _ _ _ _ => rfl⟩
  | rdCursors => exact ⟨_, .reply _ (.value s.cursorWord), fun _ _ _ _ => rfl⟩

/-- The next state of an operation other than TRY_READ is its effect on the present one, and the operation has
the same effect on the states of `exec_effect`. -/
theorem exec_eq_effect {t : State} (hi : i ≠ .tryRead) (h : exec i s = .next t) :
    ∃ f, Effect s i f ∧ t = f s ∧ ∀ x l q, (i = .rdStatus → x = s.status) →
      exec i { s with status := x, latch := l, fsm := q } =
        .next (f { s with status := x, latch := l, fsm := q }) := by
  obtain ⟨f, heff, hrun⟩ := exec_effect s hi
  have hs : exec i s = .next (f s) := hrun s.status s.latch s.fsm fun _ => rfl
  rw [hs] at h
  cases h
  exact ⟨f, heff, rfl, hrun⟩

theorem Effect.cfg_eq (heff : Effect s i f) (u : State) : (f u).cfg = u.cfg := by cases heff <;> rfl

theorem Effect.latch_eq (heff : Effect s i f) (u : State) : (f u).latch = u.latch := by cases heff <;> rfl

theorem Effect.fsm_eq (heff : Effect s i f) (u : State) : (f u).fsm = u.fsm := by cases heff <;> rfl

/-- An effect on a state with other flags differs in the flags only. -/
theorem Effect.setStatus (heff : Effect s i f) (u : State) (x : BitVec 3) :
    ∃ y, f { u with status := x } = { f u with status := y } := by
  cases heff <;> exact ⟨_, rfl⟩

/-- An effect neither reads nor writes the latch and `fsm`. -/
theorem Effect.setLatch_setFsm (heff : Effect s i f) (u : State) (l : Latch) (q : Fsm) :
    f { u with latch := l, fsm := q } = { f u with latch := l, fsm := q } := by
  cases heff <;> rfl

end Sys2Proof.Machine
end

section
/-! PROOFS. The transitions of the state machine of `43_frame_decoder.md` R165 as two relations, and what a
whole TRY_READ keeps because each of them keeps it. -/

namespace Sys2Proof.Machine

variable {s t : State} {r : Response}

/-- The latch after BODY: body and checksum field copied out at the length the header gave (R159, R160). -/
abbrev State.copiedLatch (s : State) : Latch :=
  let body := s.peekBytes ((s.rcur + 8) % s.cfg.capacity) (s.latch.hLen.toNat - 12)
  { s.latch with
    body := body, rxck := s.peekU32 ((s.rcur + s.latch.hLen.toNat - 4) % s.cfg.capacity),
    reg := crc16 body, ck := checksum body }

/-- The transitions of R165 that go on to another state. -/
inductive FsmGoes (s : State) : State → Prop
  | idle (hfsm : s.fsm = .idle) : FsmGoes s (s.setFsm .drain)
  | drain (hfsm : s.fsm = .drain) : FsmGoes s (s.drain.setFsm .check)
  | check (hfsm : s.fsm = .check) (hmore : 8 < s.unread) :
      FsmGoes s ((s.setLatch { s.latch with avail := s.unread }).setFsm .sync)
  | syncHit (hfsm : s.fsm = .sync) (hpre : s.peekU32 s.rcur = s.cfg.preamble) : FsmGoes s (s.setFsm .hdr)
  | syncMiss (hfsm : s.fsm = .sync) (hpre : s.peekU32 s.rcur ≠ s.cfg.preamble) :
      FsmGoes s (s.resync.setFsm .check)
  | hdrGood (hfsm : s.fsm = .hdr) (hvalid : s.candidateValid) :
      FsmGoes s ((s.setLatch { s.latch with
        hId := s.peekU16 (s.rcur + 4), hLen := s.peekU16 (s.rcur + 6) }).setFsm .len)
  | hdrBad (hfsm : s.fsm = .hdr) (hvalid : ¬ s.candidateValid) :
      FsmGoes s ((s.setLatch { s.latch with
        hId := s.peekU16 (s.rcur + 4), hLen := s.peekU16 (s.rcur + 6) }).resync.setFsm .check)
  | len (hfsm : s.fsm = .len) (hall : ¬ s.latch.avail < s.latch.hLen.toNat) : FsmGoes s (s.setFsm .body)
  | body (hfsm : s.fsm = .body) : FsmGoes s ((s.setLatch s.copiedLatch).setFsm .consume)
  | consume (hfsm : s.fsm = .consume) : FsmGoes s ((s.advanceRead s.latch.hLen.toNat).setFsm .verdict)
  | verdict (hfsm : s.fsm = .verdict) (hbad : s.latch.ck ≠ s.latch.rxck) :
      FsmGoes s ((s.raise .checksumMismatch).setFsm .check)

/-- The transitions of R165 that end the operation with a response. -/
inductive FsmEnds (s : State) : State → Response → Prop
  | check (hfsm : s.fsm = .check) (hfew : s.unread ≤ 8) :
      FsmEnds s ((s.setLatch { s.latch with avail := s.unread }).setFsm .idle) (Response.bare .noFrame)
  | len (hfsm : s.fsm = .len) (hwait : s.latch.avail < s.latch.hLen.toNat) :
      FsmEnds s (s.setFsm .idle) (Response.bare .noFrame)
  | verdict (hfsm : s.fsm = .verdict) (hgood : s.latch.ck = s.latch.rxck) :
      FsmEnds s (s.setFsm .idle) (frameDecoded s.latch.hId s.latch.body)

theorem FsmGoes.fsmStep_eq (hgo : FsmGoes s t) : fsmStep s = .goTo t := by
  cases hgo with
  | idle hfsm => rw [fsmStep, hfsm]; rfl
  | drain hfsm => rw [fsmStep, hfsm]; rfl
  | check hfsm hmore => exact fsmStep_check_go hfsm hmore
  | syncHit hfsm hpre => exact fsmStep_sync_hit hfsm hpre
  | syncMiss hfsm hpre => exact fsmStep_sync_miss hfsm hpre
  | hdrGood hfsm hvalid => exact fsmStep_hdr_good hfsm hvalid
  | hdrBad hfsm hvalid => exact fsmStep_hdr_bad hfsm hvalid
  | len hfsm hall => exact fsmStep_len_go hfsm hall
  | body hfsm => rw [fsmStep, hfsm]; rfl
  | consume hfsm => rw [fsmStep, hfsm]; rfl
  | verdict hfsm hbad => exact fsmStep_verdict_bad hfsm hbad

theorem FsmEnds.fsmStep_eq (hend : FsmEnds s t r) : fsmStep s = .finish t r := by
  cases hend with
  | check hfsm hfew => exact fsmStep_check_exit hfsm hfew
  | len hfsm hwait => exact fsmStep_len_wait hfsm hwait
  | verdict hfsm hgood => exact fsmStep_verdict_good hfsm hgood

/-- From every state the machine has a transition. -/
theorem fsmGoes_or_fsmEnds (s : State) : (∃ t, FsmGoes s t) ∨ ∃ t r, FsmEnds s t r := by
  cases hfsm : s.fsm with
  | idle => exact .inl ⟨_, .idle hfsm⟩
  | drain => exact .inl ⟨_, .drain hfsm⟩
  | check =>
    rcases Nat.lt_or_ge 8 s.unread with hmore | hfew
    · exact .inl ⟨_, .check hfsm hmore⟩
    · exact .inr ⟨_, _, .check hfsm hfew⟩
  | sync =>
    by_cases hpre : s.peekU32 s.rcur = s.cfg.preamble
    · exact .inl ⟨_, .syncHit hfsm hpre⟩
    · exact .inl ⟨_, .syncMiss hfsm hpre⟩
  | hdr =>
    by_cases hvalid : s.candidateValid
    · exact .inl ⟨_, .hdrGood hfsm hvalid⟩
    · exact .inl ⟨_, .hdrBad hfsm hvalid⟩
  | len =>
    by_cases hwait : s.latch.avail < s.latch.hLen.toNat
    · exact .inr ⟨_, _, .len hfsm hwait⟩
    · exact .inl ⟨_, .len hfsm hwait⟩
  | body => exact .inl ⟨_, .body hfsm⟩
  | consume => exact .inl ⟨_, .consume hfsm⟩
  | verdict =>
    by_cases hgood : s.latch.ck = s.latch.rxck
    · exact .inr ⟨_, _, .verdict hfsm hgood⟩
    · exact .inl ⟨_, .verdict hfsm hgood⟩

theorem fsmStep_eq_goTo_iff : fsmStep s = .goTo t ↔ FsmGoes s t := by
  refine ⟨fun h => ?_, FsmGoes.fsmStep_eq⟩
  obtain ⟨u, hgo⟩ | ⟨u, r, hend⟩ := fsmGoes_or_fsmEnds s
  · rw [hgo.fsmStep_eq] at h; cases h; exact hgo
  · rw [hend.fsmStep_eq] at h; cases h

theorem fsmStep_eq_finish_iff : fsmStep s = .finish t r ↔ FsmEnds s t r := by
  refine ⟨fun h => ?_, FsmEnds.fsmStep_eq⟩
  obtain ⟨u, hgo⟩ | ⟨u, r, hend⟩ := fsmGoes_or_fsmEnds s
  · rw [hgo.fsmStep_eq] at h; cases h
  · rw [hend.fsmStep_eq] at h; cases h; exact hend

/-- The transition that responds writes nothing but `fsm` and the latch. -/
theorem FsmEnds.eq_setLatch_setFsm (hend : FsmEnds s t r) : t = (s.setLatch t.latch).setFsm .idle := by
  cases hend <;> rfl

/-- A property that every transition which goes on keeps holds where a run responds. -/
theorem fsmRun_last {P : State → Prop} (hgo : ∀ u v, P u → FsmGoes u v → P v) (n : Nat) (hs : P s)
    (hrun : fsmRun n s = some (t, r)) : ∃ u, P u ∧ FsmEnds u t r := by
  induction n generalizing s with
  | zero => cases hrun
  | succ n ih =>
    obtain ⟨u, hu⟩ | ⟨u, r', hend⟩ := fsmGoes_or_fsmEnds s
    · rw [fsmRun_goTo hu.fsmStep_eq] at hrun
      exact ih (hgo s u hs hu) hrun
    · rw [fsmRun_finish hend.fsmStep_eq] at hrun
      cases hrun
      exact ⟨s, hs, hend⟩

/-- What holds where TRY_READ starts its machine and is kept by every transition that goes on holds of a state
which TRY_READ leaves but for the return to IDLE, the release of the latch and the response. -/
theorem exec_tryRead_induct {P : State → Prop} (hgo : ∀ u v, P u → FsmGoes u v → P v)
    (hstart : P (s.setFsm .idle)) (h : exec .tryRead s = .next t) :
    ∃ u r, P u ∧ t = (u.setFsm .idle).releaseLatch.respond r := by
  obtain ⟨v, r, hrun, rfl⟩ := execTryRead_cases h
  obtain ⟨u, hu, hend⟩ := fsmRun_last hgo _ hstart hrun
  refine ⟨u, r, hu, ?_⟩
  rw [hend.eq_setLatch_setFsm]
  rfl

theorem exec_tryRead_of_fsmRun (hrun : fsmRun (fsmBound s) (s.setFsm .idle) = some (t, r)) :
    exec .tryRead s = .next (t.releaseLatch.respond r) := by
  simp only [exec, execTryRead, hrun]

/-- Two runs in lockstep: a relation that every transition keeps, on to a second relation where the machine
responds, carries a run over to a related state, with the same number of transitions and the same response. -/
theorem fsmRun_lockstep {R Q : State → State → Prop}
    (hgo : ∀ u u' v, R u u' → FsmGoes u v → ∃ v', FsmGoes u' v' ∧ R v v')
    (hend : ∀ u u' v r, R u u' → FsmEnds u v r → ∃ v', FsmEnds u' v' r ∧ Q v v')
    (n : Nat) {s' : State} (hs : R s s') (hrun : fsmRun n s = some (t, r)) :
    ∃ t', fsmRun n s' = some (t', r) ∧ Q t t' := by
  induction n generalizing s s' with
  | zero => cases hrun
  | succ n ih =>
    obtain ⟨u, hu⟩ | ⟨u, r', hu⟩ := fsmGoes_or_fsmEnds s
    · obtain ⟨u', hu', hR⟩ := hgo s s' u hs hu
      rw [fsmRun_goTo hu.fsmStep_eq] at hrun
      rw [fsmRun_goTo hu'.fsmStep_eq]
      exact ih hR hrun
    · obtain ⟨u', hu', hQ⟩ := hend s s' u r' hs hu
      rw [fsmRun_finish hu.fsmStep_eq] at hrun
      cases hrun
      exact ⟨u', fsmRun_finish hu'.fsmStep_eq, hQ⟩

/-- A property that the drain's own updates keep is kept by the drain. -/
theorem State.drain_induct {P : State → Prop} (hstore : ∀ u v, P u → ¬ u.full → P (u.storeByte v))
    (hrxq : ∀ u q, P u → P (u.setRxq q)) (hraise : ∀ u e, P u → P (u.raise e)) (hs : P s) : P s.drain := by
  suffices ∀ q u, P u → P (State.drainFrom q u) from this s.rxq s hs
  intro q
  induction q with
  | nil => exact fun u hu => hrxq u [] hu
  | cons v q ih =>
    intro u hu
    by_cases hfull : u.full
    · rw [State.drainFrom_cons_full v q hfull]
      exact hraise _ _ (hrxq u _ hu)
    · rw [State.drainFrom_cons v q hfull]
      exact ih _ (hstore u v hu hfull)

end Sys2Proof.Machine
end

section
/-! PROOFS. The invariant of every step (`10_state.md` R20 to R22, R25, R26): the part of it about the ring, which
every state inside a TRY_READ has too, then the rest. -/

namespace Sys2Proof.Machine

variable {s t : State} {i : Instr} {f : State → State}

/-- The part of `State.Inv` that holds inside a TRY_READ too, where `fsm` and the latch move. -/
structure State.RingInv (s : State) : Prop where
  cfg_wf : s.cfg.wf
  wcur_lt : s.wcur < s.cfg.capacity
  rcur_lt : s.rcur < s.cfg.capacity
  buf_wf : s.buf.wf
  buf_lt : ∀ c ∈ s.buf, c.1 < s.cfg.capacity

theorem State.Inv.ringInv (h : s.Inv) : s.RingInv := ⟨h.cfg_wf, h.wcur_lt, h.rcur_lt, h.buf_wf, h.buf_lt⟩

theorem State.RingInv.capacity_pos (h : s.RingInv) : 0 < s.cfg.capacity := Nat.zero_lt_of_lt h.wcur_lt

theorem State.RingInv.congr (h : s.RingInv) (hcfg : t.cfg = s.cfg) (hbuf : t.buf = s.buf)
    (hwcur : t.wcur = s.wcur) (hrcur : t.rcur = s.rcur) : t.RingInv := by
  refine ⟨?_, ?_, ?_, ?_, ?_⟩ <;> simp only [hcfg, hbuf, hwcur, hrcur]
  exacts [h.cfg_wf, h.wcur_lt, h.rcur_lt, h.buf_wf, h.buf_lt]

theorem State.RingInv.advanceRead (h : s.RingInv) (n : Nat) : (s.advanceRead n).RingInv :=
  ⟨h.cfg_wf, h.wcur_lt, Nat.mod_lt _ h.capacity_pos, h.buf_wf, h.buf_lt⟩

theorem State.RingInv.storeByte (h : s.RingInv) (v : Byte) : (s.storeByte v).RingInv where
  cfg_wf := h.cfg_wf
  wcur_lt := Nat.mod_lt _ h.capacity_pos
  rcur_lt := h.rcur_lt
  buf_wf := Memory.write_wf _ _ h.buf_wf
  buf_lt c hc := (Memory.mem_write hc).elim (fun he => he ▸ h.wcur_lt) (h.buf_lt c)

theorem State.RingInv.drain (h : s.RingInv) : s.drain.RingInv :=
  State.drain_induct (fun _ v hu _ => hu.storeByte v) (fun _ _ hu => hu.congr rfl rfl rfl rfl)
    (fun _ _ hu => hu.congr rfl rfl rfl rfl) h

theorem State.RingInv.effect (h : s.RingInv) (heff : Effect s i f) : (f s).RingInv := by
  cases heff with
  | store v => exact (h.storeByte v).congr rfl rfl rfl rfl
  | advance n => exact (h.advanceRead n.toNat).congr rfl rfl rfl rfl
  | reply | refuse | write | clear => exact h.congr rfl rfl rfl rfl

theorem State.RingInv.fsmGoes (h : s.RingInv) (hgo : FsmGoes s t) : t.RingInv := by
  cases hgo with
  | drain => exact h.drain.congr rfl rfl rfl rfl
  | syncMiss | hdrBad => exact (h.advanceRead 1).congr rfl rfl rfl rfl
  | consume => exact (h.advanceRead _).congr rfl rfl rfl rfl
  | idle | check | syncHit | hdrGood | len | body | verdict => exact h.congr rfl rfl rfl rfl

/-- The released latch is cut to its widths (R26). -/
theorem State.RingInv.inv_releaseLatch (h : s.RingInv) (hfsm : s.fsm = .idle) : s.releaseLatch.Inv where
  cfg_wf := h.cfg_wf
  wcur_lt := h.wcur_lt
  rcur_lt := h.rcur_lt
  buf_wf := h.buf_wf
  buf_lt := h.buf_lt
  fsm_idle := hfsm
  avail_lt := Nat.mod_lt _ h.capacity_pos
  body_le := by simp [latchWithin]

/-- A state with the ring in order and the latch and `fsm` of a state with the invariant has it too. -/
theorem State.Inv.of_ringInv (h : s.Inv) (ht : t.RingInv) (hcfg : t.cfg = s.cfg) (hfsm : t.fsm = s.fsm)
    (hlatch : t.latch = s.latch) : t.Inv where
  cfg_wf := ht.cfg_wf
  wcur_lt := ht.wcur_lt
  rcur_lt := ht.rcur_lt
  buf_wf := ht.buf_wf
  buf_lt := ht.buf_lt
  fsm_idle := hfsm.trans h.fsm_idle
  avail_lt := by rw [hlatch, hcfg]; exact h.avail_lt
  body_le := by rw [hlatch, hcfg]; exact h.body_le

theorem State.Inv.dropInput (h : s.Inv) : s.dropInput.Inv :=
  h.of_ringInv (h.ringInv.congr rfl rfl rfl rfl) rfl rfl rfl

theorem State.Inv.arrive (h : s.Inv) (bytes : List Byte) : (s.arrive bytes).Inv :=
  h.of_ringInv (h.ringInv.congr rfl rfl rfl rfl) rfl rfl rfl

theorem State.Inv.respond (h : s.Inv) (r : Response) : (s.respond r).Inv :=
  h.of_ringInv (h.ringInv.congr rfl rfl rfl rfl) rfl rfl rfl

theorem State.Inv.exec (h : s.Inv) (hrun : exec i s = .next t) : t.Inv := by
  by_cases hi : i = .tryRead
  · subst hi
    obtain ⟨u, r, hu, rfl⟩ := exec_tryRead_induct (P := State.RingInv) (fun _ _ => State.RingInv.fsmGoes)
      (h.ringInv.congr rfl rfl rfl rfl) hrun
    have hidle : (u.setFsm .idle).RingInv := hu.congr rfl rfl rfl rfl
    exact (hidle.inv_releaseLatch rfl).respond r
  · obtain ⟨f, heff, rfl, -⟩ := exec_eq_effect hi hrun
    exact h.of_ringInv (h.ringInv.effect heff) (heff.cfg_eq s) (heff.fsm_eq s) (heff.latch_eq s)

/-- Settles O48, by the four things a step can do: operations keep the invariant by `State.Inv.exec`. -/
theorem stepKeepsTheInvariant : Obligations.StepKeepsTheInvariant := by
  intro s t hinv hstep
  obtain ⟨-, ⟨-, rfl⟩ | ⟨bytes, -, -, rfl⟩ | ⟨-, -, -, -, -, -, rfl⟩ | ⟨-, -, -, i, -, -, hrun⟩⟩ :=
    step_cases hstep
  · exact hinv
  · exact hinv.dropInput.arrive bytes
  · exact hinv.dropInput.respond _
  · exact hinv.dropInput.exec hrun

end Sys2Proof.Machine
end

section
/-! PROOFS. I-unread (`10_state.md` R24): a push writes the one byte it adds to the unread region, and reads give
up unread bytes only, the search of TRY_READ included. -/

namespace Sys2Proof.Machine

variable {s t : State} {i : Instr} {f : State → State}

theorem State.UnreadWritten.congr (h : s.UnreadWritten) (hcfg : t.cfg = s.cfg) (hbuf : t.buf = s.buf)
    (hwcur : t.wcur = s.wcur) (hrcur : t.rcur = s.rcur) : t.UnreadWritten := by
  simp only [State.UnreadWritten, State.unread, State.availableFrom, State.written, hcfg, hbuf, hwcur, hrcur]
  exact h

theorem State.written_storeByte (v : Byte) (a : Nat) : (s.storeByte v).written a ↔ a = s.wcur ∨ s.written a := by
  simp only [State.written, State.storeByte_buf, Memory.read?_write]
  split <;> simp [*]

/-- The byte a push adds to the unread region is the one it writes, at the write cursor. -/
theorem State.UnreadWritten.storeByte (h : s.UnreadWritten) (hring : s.RingInv) (hroom : ¬ s.full) (v : Byte) :
    (s.storeByte v).UnreadWritten := by
  intro k hk
  rw [State.unread_storeByte v hring.wcur_lt hring.rcur_lt hroom] at hk
  refine (State.written_storeByte v _).2 ?_
  rcases Nat.lt_succ_iff_lt_or_eq.1 hk with hold | rfl
  · exact .inr (h k hold)
  · exact .inl (State.add_availableFrom hring.wcur_lt hring.rcur_lt)

/-- What an advance within the unread region leaves unread was unread before. -/
theorem State.UnreadWritten.advanceRead (h : s.UnreadWritten) (hring : s.RingInv) {n : Nat} (hn : n ≤ s.unread) :
    (s.advanceRead n).UnreadWritten := by
  intro k hk
  have hcount := State.unread_advanceRead hring.wcur_lt hring.rcur_lt hn
  have hpos : ((s.advanceRead n).rcur + k) % s.cfg.capacity = (s.rcur + (n + k)) % s.cfg.capacity := by
    rw [State.advanceRead_rcur, Nat.mod_add_mod, Nat.add_assoc]
  show s.written (((s.advanceRead n).rcur + k) % s.cfg.capacity)
  rw [hpos]
  exact h (n + k) (by omega)

theorem State.UnreadWritten.drain (h : s.UnreadWritten) (hring : s.RingInv) : s.drain.UnreadWritten := by
  have hboth : s.drain.RingInv ∧ s.drain.UnreadWritten := by
    refine State.drain_induct (P := fun u => u.RingInv ∧ u.UnreadWritten) ?_ ?_ ?_ ⟨hring, h⟩
    · exact fun u v ⟨hr, hw⟩ hroom => ⟨hr.storeByte v, hw.storeByte hr hroom v⟩
    · exact fun u q ⟨hr, hw⟩ => ⟨hr.congr rfl rfl rfl rfl, hw.congr rfl rfl rfl rfl⟩
    · exact fun u e ⟨hr, hw⟩ => ⟨hr.congr rfl rfl rfl rfl, hw.congr rfl rfl rfl rfl⟩
  exact hboth.2

theorem State.UnreadWritten.effect (h : s.UnreadWritten) (hring : s.RingInv) (heff : Effect s i f)
    (hadv : ∀ n, i = .advance n → n.toNat ≤ s.unread) : (f s).UnreadWritten := by
  cases heff with
  | store v hroom => exact (h.storeByte hring hroom v).congr rfl rfl rfl rfl
  | advance n => exact (h.advanceRead hring (hadv n rfl)).congr rfl rfl rfl rfl
  | reply | refuse | write | clear => exact h.congr rfl rfl rfl rfl

/-- What the state machine knows of the unread count at each of its states: the count stands in `avail` from
CHECK on, and from BODY on it covers the frame that CONSUME will take. -/
def State.SearchCovered (s : State) : Prop :=
  match s.fsm with
  | .idle | .drain | .check | .verdict => True
  | .sync | .hdr => s.latch.avail = s.unread ∧ 8 < s.unread
  | .len => s.latch.avail = s.unread
  | .body | .consume => s.latch.hLen.toNat ≤ s.unread

/-- What every state inside a TRY_READ has. -/
structure State.SearchInv (s : State) : Prop where
  ring : s.RingInv
  written : s.UnreadWritten
  covered : s.SearchCovered

theorem State.SearchCovered.fsmGoes (h : s.SearchCovered) (hgo : FsmGoes s t) : t.SearchCovered := by
  unfold State.SearchCovered at h
  cases hgo with
  | idle | drain | syncMiss | hdrBad | consume | verdict => trivial
  | check _ hmore => exact ⟨rfl, hmore⟩
  | syncHit hfsm => rw [hfsm] at h; exact h
  | hdrGood hfsm => rw [hfsm] at h; exact h.1
  | len hfsm hall => rw [hfsm] at h; exact (Nat.not_lt.1 hall).trans (Nat.le_of_eq h)
  | body hfsm => rw [hfsm] at h; exact h

theorem State.SearchInv.written_fsmGoes (h : s.SearchInv) (hgo : FsmGoes s t) : t.UnreadWritten := by
  obtain ⟨hring, hwritten, hcovered⟩ := h
  unfold State.SearchCovered at hcovered
  cases hgo with
  | drain => exact (hwritten.drain hring).congr rfl rfl rfl rfl
  | syncMiss hfsm | hdrBad hfsm =>
    rw [hfsm] at hcovered
    have hone : 1 ≤ s.unread := by omega
    exact (hwritten.advanceRead hring hone).congr rfl rfl rfl rfl
  | consume hfsm =>
    rw [hfsm] at hcovered
    exact (hwritten.advanceRead hring hcovered).congr rfl rfl rfl rfl
  | idle | check | syncHit | hdrGood | len | body | verdict => exact hwritten.congr rfl rfl rfl rfl

theorem State.SearchInv.fsmGoes (h : s.SearchInv) (hgo : FsmGoes s t) : t.SearchInv :=
  ⟨h.ring.fsmGoes hgo, h.written_fsmGoes hgo, h.covered.fsmGoes hgo⟩

theorem State.UnreadWritten.exec (h : s.UnreadWritten) (hring : s.RingInv)
    (hadv : ∀ n, i = .advance n → n.toNat ≤ s.unread) (hrun : exec i s = .next t) : t.UnreadWritten := by
  by_cases hi : i = .tryRead
  · subst hi
    have hstart : (s.setFsm .idle).SearchInv := ⟨hring.congr rfl rfl rfl rfl, h.congr rfl rfl rfl rfl, trivial⟩
    obtain ⟨u, r, hu, rfl⟩ := exec_tryRead_induct (P := State.SearchInv) (fun _ _ => State.SearchInv.fsmGoes)
      hstart hrun
    exact hu.written.congr rfl rfl rfl rfl
  · obtain ⟨f, heff, rfl, -⟩ := exec_eq_effect hi hrun
    exact h.effect hring heff hadv

/-- Settles O50, by the four things a step can do; the host's side of R241 is the bound that
`State.UnreadWritten.exec` asks of an ADVANCE. -/
theorem unreadBytesStayWritten : Obligations.UnreadBytesStayWritten := by
  intro s t hinv hwritten hadv hstep
  obtain ⟨-, ⟨-, rfl⟩ | ⟨bytes, -, -, rfl⟩ | ⟨-, -, -, -, -, -, rfl⟩ |
    ⟨w, din, rest, i, hinputs, hdecode, hrun⟩⟩ := step_cases hstep
  · exact hwritten
  · exact hwritten.congr rfl rfl rfl rfl
  · exact hwritten.congr rfl rfl rfl rfl
  · have hdrop : s.dropInput.UnreadWritten := hwritten.congr rfl rfl rfl rfl
    refine hdrop.exec hinv.dropInput.ringInv (fun n hn => ?_) hrun
    exact hadv w din rest n hinputs (hn ▸ hdecode)

end Sys2Proof.Machine
end

section
/-! PROOFS. Who writes which register (`10_state.md` R20 to R22, `20_memory.md` R50, R63), and the stickiness of
the flags (`10_state.md` R27). -/

namespace Sys2Proof.Machine

variable {s t : State} {i : Instr} {f : State → State}

theorem FsmGoes.txlog_eq (hgo : FsmGoes s t) : t.txlog = s.txlog := by
  rw [(fsmStep_frame s).1 t hgo.fsmStep_eq]

theorem exec_tryRead_txlog (h : exec .tryRead s = .next t) : t.txlog = s.txlog := by
  obtain ⟨u, r, hu, rfl⟩ := exec_tryRead_induct (P := fun u => u.txlog = s.txlog)
    (fun _ _ hu hgo => hgo.txlog_eq.trans hu) rfl h
  exact hu

/-- Settles O52: an effect is the update that the spec gives its operation, and TRY_READ may write all but
`txlog`. -/
theorem eachRegisterHasItsWriters : Obligations.EachRegisterHasItsWriters := by
  intro i s t h
  by_cases hi : i = .tryRead
  · subst hi
    simp [Instr.op, exec_tryRead_txlog h]
  · obtain ⟨f, heff, rfl, -⟩ := exec_eq_effect hi h
    cases heff <;> simp [Instr.op]

theorem State.raise_keeps_flag {j : Nat} (e : Event) (hj : s.status.getLsbD j = true) :
    (s.raise e).status.getLsbD j = true := by
  rw [State.raise_status, BitVec.getLsbD_or, hj, Bool.true_or]

theorem State.drain_keeps_flag {j : Nat} (hj : s.status.getLsbD j = true) : s.drain.status.getLsbD j = true :=
  State.drain_induct (P := fun u => u.status.getLsbD j = true) (fun _ _ hu _ => hu) (fun _ _ hu => hu)
    (fun _ e hu => State.raise_keeps_flag e hu) hj

theorem FsmGoes.keeps_flag {j : Nat} (hgo : FsmGoes s t) (hj : s.status.getLsbD j = true) :
    t.status.getLsbD j = true := by
  cases hgo with
  | drain => exact State.drain_keeps_flag hj
  | syncMiss | hdrBad | verdict => exact State.raise_keeps_flag _ hj
  | idle | check | syncHit | hdrGood | len | body | consume => exact hj

theorem exec_tryRead_keeps_flag {j : Nat} (h : exec .tryRead s = .next t) (hj : s.status.getLsbD j = true) :
    t.status.getLsbD j = true := by
  obtain ⟨u, r, hu, rfl⟩ := exec_tryRead_induct (P := fun u => u.status.getLsbD j = true)
    (fun _ _ hu hgo => hgo.keeps_flag hu) hj h
  exact hu

/-- The only effect that clears a flag is that of a CLR_STATUS whose mask names it (`44_system_ops.md` R191). -/
theorem Effect.clears_flag {j : Nat} (heff : Effect s i f) (hj : s.status.getLsbD j = true)
    (hj' : (f s).status.getLsbD j = false) : ∃ mask, i = .clrStatus mask ∧ mask.getLsbD j = true := by
  cases heff with
  | clear mask =>
    have hlt : j < 3 := BitVec.lt_of_getLsbD hj
    exact ⟨mask, rfl, by simpa [hj, hlt] using hj'⟩
  | refuse => exact absurd (State.raise_keeps_flag .overrun hj) (Bool.eq_false_iff.1 hj')
  | reply | store | advance | write => exact absurd hj (Bool.eq_false_iff.1 hj')

/-- Settles O53: TRY_READ only sets flags, and of the effects only that of CLR_STATUS clears one. -/
theorem flagsAreStickyUntilCleared : Obligations.FlagsAreStickyUntilCleared := by
  intro i s t j h hj hj'
  by_cases hi : i = .tryRead
  · subst hi
    exact absurd (exec_tryRead_keeps_flag h hj) (Bool.eq_false_iff.1 hj')
  · obtain ⟨f, heff, rfl, -⟩ := exec_eq_effect hi h
    exact heff.clears_flag hj hj'

end Sys2Proof.Machine
end

section
/-! PROOFS. The flags change no behaviour (`10_state.md` R27): two runs of the state machine that differ in STATUS
only stay so, transition by transition. -/

namespace Sys2Proof.Machine

variable {s t : State} {r : Response}

theorem State.drain_setStatus (s : State) (x : BitVec 3) :
    ∃ y, State.drain { s with status := x } = { s.drain with status := y } := by
  suffices ∀ q u x, ∃ y, State.drainFrom q { u with status := x } = { State.drainFrom q u with status := y } from
    this s.rxq s x
  intro q
  induction q with
  | nil => exact fun u x => ⟨x, rfl⟩
  | cons v q ih =>
    intro u x
    by_cases hfull : u.full
    · rw [State.drainFrom_cons_full v q hfull, State.drainFrom_cons_full (s := { u with status := x }) v q hfull]
      exact ⟨_, rfl⟩
    · rw [State.drainFrom_cons v q hfull, State.drainFrom_cons (s := { u with status := x }) v q hfull]
      exact ih (u.storeByte v) x

theorem FsmGoes.setStatus (hgo : FsmGoes s t) (x : BitVec 3) :
    ∃ y, FsmGoes { s with status := x } { t with status := y } := by
  cases hgo with
  | idle hfsm => exact ⟨_, .idle hfsm⟩
  | drain hfsm =>
    obtain ⟨y, hy⟩ := s.drain_setStatus x
    have hgo := FsmGoes.drain (s := { s with status := x }) hfsm
    rw [hy] at hgo
    exact ⟨y, hgo⟩
  | check hfsm hmore => exact ⟨_, .check hfsm hmore⟩
  | syncHit hfsm hpre => exact ⟨_, .syncHit hfsm hpre⟩
  | syncMiss hfsm hpre => exact ⟨_, .syncMiss hfsm hpre⟩
  | hdrGood hfsm hvalid => exact ⟨_, .hdrGood hfsm hvalid⟩
  | hdrBad hfsm hvalid => exact ⟨_, .hdrBad hfsm hvalid⟩
  | len hfsm hall => exact ⟨_, .len hfsm hall⟩
  | body hfsm => exact ⟨_, .body hfsm⟩
  | consume hfsm => exact ⟨_, .consume hfsm⟩
  | verdict hfsm hbad => exact ⟨_, .verdict hfsm hbad⟩

theorem FsmEnds.setStatus (hend : FsmEnds s t r) (x : BitVec 3) :
    FsmEnds { s with status := x } { t with status := x } r := by
  cases hend with
  | check hfsm hfew => exact .check hfsm hfew
  | len hfsm hwait => exact .len hfsm hwait
  | verdict hfsm hgood => exact .verdict hfsm hgood

/-- Two states alike but for STATUS. -/
def AlikeButStatus (s s' : State) : Prop := ∃ x, s' = { s with status := x }

theorem exec_tryRead_setStatus (h : exec .tryRead s = .next t) (x : BitVec 3) :
    ∃ y, exec .tryRead { s with status := x } = .next { t with status := y } := by
  obtain ⟨u, r, hrun, rfl⟩ := execTryRead_cases h
  have hstart : AlikeButStatus (s.setFsm .idle) (State.setFsm { s with status := x } .idle) := ⟨x, rfl⟩
  obtain ⟨u', hrun', y, rfl⟩ : ∃ u', fsmRun _ _ = some (u', r) ∧ AlikeButStatus u u' := by
    refine fsmRun_lockstep ?_ ?_ _ hstart hrun
    · rintro u _ v ⟨x, rfl⟩ hgo
      obtain ⟨y, hgo'⟩ := hgo.setStatus x
      exact ⟨_, hgo', y, rfl⟩
    · rintro u _ v r ⟨x, rfl⟩ hend
      exact ⟨_, hend.setStatus x, x, rfl⟩
  have hexec := exec_tryRead_of_fsmRun (s := { s with status := x }) hrun'
  exact ⟨y, hexec⟩

/-- Settles O54: TRY_READ by the two runs in lockstep, the other operations by their effect, which is chosen
without a look at STATUS. -/
theorem flagsChangeNoBehaviour : Obligations.FlagsChangeNoBehaviour := by
  intro i s t x hne h
  by_cases hi : i = .tryRead
  · subst hi
    exact exec_tryRead_setStatus h x
  · obtain ⟨f, heff, rfl, hrun⟩ := exec_eq_effect hi h
    obtain ⟨y, hy⟩ := heff.setStatus s x
    exact ⟨y, hy ▸ hrun x s.latch s.fsm fun hrd => absurd hrd hne⟩

end Sys2Proof.Machine
end

section
/-! PROOFS. Neither the latch nor `fsm` carries anything on (`10_state.md` R25, R26): TRY_READ starts at IDLE and
reads of the latch what it has written in the same operation. -/

namespace Sys2Proof.Machine

variable {s t : State} {r : Response}

/-- Two latches agree in the fields that TRY_READ has written when its machine is in a state, so in those it may
still read: the count from CHECK on, the header from HDR on, all of them from BODY on. -/
def Latch.AgreeAt : Fsm → Latch → Latch → Prop
  | .idle, _, _ | .drain, _, _ | .check, _, _ => True
  | .sync, l, l' | .hdr, l, l' => l'.avail = l.avail
  | .len, l, l' | .body, l, l' => l'.avail = l.avail ∧ l'.hId = l.hId ∧ l'.hLen = l.hLen
  | .consume, l, l' | .verdict, l, l' => l' = l

/-- Two states alike but for what of the latch the machine has not written yet. -/
def AlikeButLatch (s s' : State) : Prop := ∃ l, s' = s.setLatch l ∧ Latch.AgreeAt s.fsm s.latch l

theorem State.drain_setLatch (s : State) (l : Latch) : (s.setLatch l).drain = s.drain.setLatch l := by
  have h : (s.setLatch l).drain = (s.drain.setLatch l).setFsm s.fsm :=
    State.drainFrom_setLatch_setFsm s.rxq s l s.fsm
  rw [h, ← s.drain_fsm]
  rfl

theorem State.copiedLatch_setLatch {l : Latch} (havail : l.avail = s.latch.avail) (hid : l.hId = s.latch.hId)
    (hlen : l.hLen = s.latch.hLen) : (s.setLatch l).copiedLatch = s.copiedLatch := by
  obtain ⟨_, _, _, _, _, _, _⟩ := l
  cases havail
  cases hid
  cases hlen
  rfl

theorem FsmGoes.alikeButLatch {s' : State} (h : AlikeButLatch s s') (hgo : FsmGoes s t) :
    ∃ t', FsmGoes s' t' ∧ AlikeButLatch t t' := by
  obtain ⟨l, rfl, hagree⟩ := h
  cases hgo with
  | idle hfsm => exact ⟨_, .idle hfsm, l, rfl, trivial⟩
  | drain hfsm => exact ⟨_, .drain hfsm, l, by rw [s.drain_setLatch]; rfl, trivial⟩
  | check hfsm hmore => exact ⟨_, .check hfsm hmore, _, rfl, rfl⟩
  | syncHit hfsm hpre =>
    rw [hfsm] at hagree
    exact ⟨_, .syncHit hfsm hpre, l, rfl, hagree⟩
  | syncMiss hfsm hpre => exact ⟨_, .syncMiss hfsm hpre, l, rfl, trivial⟩
  | hdrGood hfsm hvalid =>
    rw [hfsm] at hagree
    exact ⟨_, .hdrGood hfsm hvalid, _, rfl, hagree, rfl, rfl⟩
  | hdrBad hfsm hvalid => exact ⟨_, .hdrBad hfsm hvalid, _, rfl, trivial⟩
  | len hfsm hall =>
    rw [hfsm] at hagree
    obtain ⟨havail, hid, hlen⟩ := hagree
    have hall' : ¬ l.avail < l.hLen.toNat := by rwa [havail, hlen]
    exact ⟨_, .len (s := s.setLatch l) hfsm hall', l, rfl, havail, hid, hlen⟩
  | body hfsm =>
    rw [hfsm] at hagree
    obtain ⟨havail, hid, hlen⟩ := hagree
    exact ⟨_, .body hfsm, _, rfl, State.copiedLatch_setLatch havail hid hlen⟩
  | consume hfsm =>
    rw [hfsm] at hagree
    cases hagree
    exact ⟨_, .consume hfsm, s.latch, rfl, rfl⟩
  | verdict hfsm hbad =>
    rw [hfsm] at hagree
    cases hagree
    exact ⟨_, .verdict hfsm hbad, s.latch, rfl, trivial⟩

theorem FsmEnds.alikeButLatch {s' : State} (h : AlikeButLatch s s') (hend : FsmEnds s t r) :
    ∃ t', FsmEnds s' t' r ∧ ∃ l, t' = t.setLatch l := by
  obtain ⟨l, rfl, hagree⟩ := h
  cases hend with
  | check hfsm hfew => exact ⟨_, .check hfsm hfew, _, rfl⟩
  | len hfsm hwait =>
    rw [hfsm] at hagree
    obtain ⟨havail, -, hlen⟩ := hagree
    have hwait' : l.avail < l.hLen.toNat := by rwa [havail, hlen]
    exact ⟨_, .len (s := s.setLatch l) hfsm hwait', l, rfl⟩
  | verdict hfsm hgood =>
    rw [hfsm] at hagree
    cases hagree
    exact ⟨_, .verdict hfsm hgood, s.latch, rfl⟩

/-- TRY_READ from another latch and `fsm` ends in the same state, the latch released to the same free value. -/
theorem exec_tryRead_setLatch_setFsm (h : exec .tryRead s = .next t) (l : Latch) (q : Fsm) :
    exec .tryRead { s with latch := l, fsm := q } = .next t := by
  obtain ⟨u, r, hrun, rfl⟩ := execTryRead_cases h
  have hstart : AlikeButLatch (s.setFsm .idle) (State.setFsm { s with latch := l, fsm := q } .idle) :=
    ⟨l, rfl, trivial⟩
  obtain ⟨u', hrun', l', rfl⟩ := fsmRun_lockstep (Q := fun v v' => ∃ l, v' = v.setLatch l)
    (fun _ _ _ hR hgo => hgo.alikeButLatch hR) (fun _ _ _ _ hR hend => hend.alikeButLatch hR) _ hstart hrun
  have hexec := exec_tryRead_of_fsmRun (s := { s with latch := l, fsm := q }) hrun'
  exact hexec

/-- Settles O55: TRY_READ by the two runs in lockstep, the other operations by their effect, which neither reads
nor writes the latch and `fsm`. -/
theorem latchAndFsmCarryNothing : Obligations.LatchAndFsmCarryNothing := by
  intro i s t l q h
  by_cases hi : i = .tryRead
  · subst hi
    exact ⟨t.latch, t.fsm, exec_tryRead_setLatch_setFsm h l q⟩
  · obtain ⟨f, heff, rfl, hrun⟩ := exec_eq_effect hi h
    exact ⟨l, q, heff.setLatch_setFsm s l q ▸ hrun s.status l q fun _ => rfl⟩

end Sys2Proof.Machine
end

section
/-! PROOFS. Reads of several bytes of ring storage (`20_memory.md` R52). -/

namespace Sys2Proof.Machine

variable (s : State)

/-- A read splits at any byte into the reads of its two parts. -/
theorem State.memRead_add (p m n : Nat) :
    s.memRead p (m + n) = s.memRead p m + s.memRead (p + m) n * 2 ^ (8 * m) := by
  rw [State.memRead, State.peekBytes_add, uLe_append, State.peekBytes_length, Nat.mul_comm]
  rfl

theorem State.memRead_one (p : Nat) : s.memRead p 1 = (s.readByte (p % s.cfg.capacity)).toNat := by
  simp [State.memRead, State.peekBytes]

theorem State.memRead_eq_sum (p n : Nat) : s.memRead p n =
    ((List.range n).map fun k => (s.readByte ((p + k) % s.cfg.capacity)).toNat * 2 ^ (8 * k)).sum := by
  induction n with
  | zero => rfl
  | succ n ih =>
    rw [State.memRead_add, State.memRead_one, ih, List.range_succ, List.map_append, List.sum_append,
      List.map_singleton, List.sum_singleton]

/-- Settles O59: the sum by induction on the width, a 4-byte read as two of 2 bytes by splitting it in the middle. -/
theorem readsAreLittleEndianAndWrap : Obligations.ReadsAreLittleEndianAndWrap :=
  fun s p => ⟨s.memRead_eq_sum p, s.memRead_add p 2 2⟩

end Sys2Proof.Machine
end

section
/-! PROOFS. The steps that run no command (`20_memory.md` R65, `60_exceptions.md` R217; log entry 8). -/

namespace Sys2Proof.Machine

variable {s t : State} {bytes : List Byte} {rest : List Input}

theorem State.nextOffer_of_inputs_nil (hinputs : s.inputs = []) : s.nextOffer = .nothing := by
  simp only [State.nextOffer, hinputs]

theorem State.nextOffer_of_inputs_arrive (hinputs : s.inputs = .arrive bytes :: rest) :
    s.nextOffer = .arrival bytes s.dropInput := by
  simp only [State.nextOffer, hinputs]

theorem step_of_nextOffer_nothing (hwf : s.cfg.wf) (hoffer : s.nextOffer = .nothing) : step s = .next s := by
  simp only [step, if_pos hwf, hoffer]

theorem step_of_nextOffer_arrival (hwf : s.cfg.wf) (hoffer : s.nextOffer = .arrival bytes t) :
    step s = .next (t.arrive bytes) := by
  simp only [step, if_pos hwf, hoffer]

/-- Settles O10: the step by what it is offered, an arrival or nothing. -/
theorem arrivalsAppendAndIdleStepsChangeNothing : Obligations.ArrivalsAppendAndIdleStepsChangeNothing := by
  refine fun s bytes rest hwf => ⟨fun hinputs => ?_, fun hinputs => ?_⟩
  · calc step s = .next (s.dropInput.arrive bytes) :=
          step_of_nextOffer_arrival hwf (State.nextOffer_of_inputs_arrive hinputs)
      _ = .next { s with inputs := rest, rxq := s.rxq ++ bytes } := by
          rw [State.dropInput_of_inputs_cons hinputs]; rfl
  · exact step_of_nextOffer_nothing hwf (State.nextOffer_of_inputs_nil hinputs)

end Sys2Proof.Machine
end

section
/-! PROOFS. The drain of TRY_READ (`43_frame_decoder.md` R151), as bytes: what is unread after it is the stream. -/

namespace Sys2Proof.Machine

variable {s : State}

/-- Two offsets below `C` from one position name two indices. -/
theorem add_mod_injective {c p i j : Nat} (hp : p < c) (hi : i < c) (hj : j < c)
    (h : (p + i) % c = (p + j) % c) : i = j :=
  calc i = ringCount c ((p + i) % c) p := (ringCount_of_add hp hi).symm
    _ = ringCount c ((p + j) % c) p := by rw [h]
    _ = j := ringCount_of_add hp hj

theorem State.RingInv.two_le_capacity (h : s.RingInv) : 2 ≤ s.cfg.capacity := by
  obtain ⟨hmin, -⟩ := h.cfg_wf
  omega

theorem State.RingInv.unread_add_drainCount_lt (h : s.RingInv) : s.unread + s.drainCount < s.cfg.capacity := by
  have hlt : s.unread < s.cfg.capacity := State.availableFrom_lt h.wcur_lt h.rcur_lt
  rw [State.drainCount]
  omega

/-- The `j`-th byte beyond the unread ones is the `j`-th from the write cursor. -/
theorem State.RingInv.wcur_add_mod (h : s.RingInv) (j : Nat) :
    (s.wcur + j) % s.cfg.capacity = (s.rcur + (s.unread + j)) % s.cfg.capacity := by
  conv_lhs => rw [← State.add_availableFrom h.wcur_lt h.rcur_lt, Nat.mod_add_mod, Nat.add_assoc]

theorem State.RingInv.drain_unread (h : s.RingInv) : s.drain.unread = s.unread + s.drainCount := by
  obtain ⟨-, -, -, hunread, -⟩ := State.drainFrom_spec s.rxq h.two_le_capacity h.wcur_lt h.rcur_lt rfl
  exact hunread

/-- A drain that moves all of `rxq` raises no event. -/
theorem State.RingInv.drain_status_of_fits (h : s.RingInv) (hfits : s.unread + s.rxq.length < s.cfg.capacity) :
    s.drain.status = s.status := by
  obtain ⟨-, -, hstatus, -⟩ := State.drainFrom_spec s.rxq h.two_le_capacity h.wcur_lt h.rcur_lt rfl
  exact hstatus.trans (if_neg (by omega))

theorem State.drainCount_le_length (s : State) : s.drainCount ≤ s.rxq.length := Nat.min_le_left ..

theorem State.RingInv.drain_readByte_moved (h : s.RingInv) {j : Nat} (hj : j < s.drainCount) :
    s.rxq[j]? = some (s.drain.readByte ((s.wcur + j) % s.cfg.capacity)) := by
  obtain ⟨-, -, -, -, hmoved, -⟩ := State.drainFrom_spec s.rxq h.two_le_capacity h.wcur_lt h.rcur_lt rfl
  have hlen : j < s.rxq.length := hj.trans_le s.drainCount_le_length
  have hread : s.drain.readByte ((s.wcur + j) % s.cfg.capacity) = s.rxq[j] :=
    State.readByte_of_read? ((hmoved j hj).trans (List.getElem?_eq_getElem hlen))
  rw [hread, List.getElem?_eq_getElem hlen]

theorem State.RingInv.drain_readByte_other (h : s.RingInv) {a : Nat}
    (ha : ∀ j, j < s.drainCount → a ≠ (s.wcur + j) % s.cfg.capacity) : s.drain.readByte a = s.readByte a := by
  obtain ⟨-, -, -, -, -, hother⟩ := State.drainFrom_spec s.rxq h.two_le_capacity h.wcur_lt h.rcur_lt rfl
  simp only [State.readByte, State.drain_powerUp]
  rw [State.drain, hother a ha]

/-- The drain stores behind the unread bytes and leaves them as they are. -/
theorem State.RingInv.drain_peekBytes_unread (h : s.RingInv) :
    s.drain.peekBytes s.rcur s.unread = s.unreadBytes := by
  have hroom := h.unread_add_drainCount_lt
  rw [State.unreadBytes, State.peekBytes, State.peekBytes, State.drain_cfg]
  refine List.map_congr_left fun i hi => h.drain_readByte_other fun j hj heq => ?_
  have hi : i < s.unread := List.mem_range.1 hi
  rw [h.wcur_add_mod] at heq
  have : i = s.unread + j := add_mod_injective h.rcur_lt (by omega) (by omega) heq
  omega

theorem State.RingInv.drain_peekBytes_moved (h : s.RingInv) :
    s.drain.peekBytes (s.rcur + s.unread) s.drainCount = s.rxq.take s.drainCount := by
  refine List.ext_getElem (by simp [s.drainCount_le_length]) fun j hj _ => ?_
  rw [State.peekBytes_length] at hj
  rw [State.peekBytes_getElem, State.drain_cfg, Nat.add_assoc, ← h.wcur_add_mod, List.getElem_take]
  exact Option.some.inj ((h.drain_readByte_moved hj).symm.trans (List.getElem?_eq_getElem _))

theorem State.RingInv.drain_unreadBytes (h : s.RingInv) : s.drain.unreadBytes = s.stream := by
  rw [State.unreadBytes, h.drain_unread, State.drain_rcur, State.peekBytes_add, h.drain_peekBytes_unread,
    h.drain_peekBytes_moved]
  rfl

/-- What arrives alone at an empty block, and fits, is the whole stream. -/
theorem State.stream_of_empty (hempty : s.unread = 0) (hfits : s.rxq.length < s.cfg.capacity) :
    s.stream = s.rxq := by
  have hall : s.rxq.length ≤ s.drainCount := by rw [State.drainCount]; omega
  rw [State.stream, State.unreadBytes, hempty, List.take_of_length_le hall]
  rfl

end Sys2Proof.Machine
end

section
/-! PROOFS. The frame on the wire (`42_frame_encoder.md` R141), and the pass of the search that finds one at the
read cursor (`43_frame_decoder.md` R153 to R162). -/

namespace Sys2Proof.Machine

section
variable (c : Config) (id : Half) (payload rest : List Byte)

@[simp] theorem frame_length : (frame c id payload).length = 12 + payload.length := by
  simp only [frame, List.length_append, leBytes_length]
  omega

/-- A frame takes nothing but the preamble from the configuration (`30_encoding.md` R80). -/
theorem frame_congr {c' : Config} (h : c.preamble = c'.preamble) : frame c id payload = frame c' id payload := by
  rw [frame, frame, h]

theorem frame_append : frame c id payload ++ rest =
    leBytes 4 c.preamble ++ (leBytes 2 id ++ (leBytes 2 (BitVec.ofNat 16 (8 + payload.length + 4)) ++
      (payload ++ (leBytes 4 (checksum payload) ++ rest)))) := by
  simp only [frame, List.append_assoc]

theorem frame_take_preamble : (frame c id payload ++ rest).take 4 = leBytes 4 c.preamble := by
  rw [frame_append, List.take_left' (leBytes_length ..)]

theorem frame_take_id : ((frame c id payload ++ rest).drop 4).take 2 = leBytes 2 id := by
  rw [frame_append, List.drop_left' (leBytes_length ..), List.take_left' (leBytes_length ..)]

theorem frame_take_length : ((frame c id payload ++ rest).drop 6).take 2 =
    leBytes 2 (BitVec.ofNat 16 (12 + payload.length)) := by
  have hsum : 8 + payload.length + 4 = 12 + payload.length := by omega
  rw [frame_append, ← List.append_assoc, List.drop_left' (by simp), List.take_left' (leBytes_length ..), hsum]

theorem frame_drop_header : (frame c id payload ++ rest).drop 8 =
    payload ++ (leBytes 4 (checksum payload) ++ rest) := by
  rw [frame_append, ← List.append_assoc, ← List.append_assoc, List.drop_left' (by simp)]

theorem frame_take_checksum : ((frame c id payload ++ rest).drop (8 + payload.length)).take 4 =
    leBytes 4 (checksum payload) := by
  rw [← List.drop_drop, frame_drop_header, List.drop_left' rfl, List.take_left' (leBytes_length ..)]

end

section
variable {s : State} {id : Half} {payload rest : List Byte}

/-- A read inside the unread region is a read of the unread bytes. -/
theorem State.peekBytes_of_unreadBytes {l : List Byte} (hbytes : s.unreadBytes = l) {a n : Nat}
    (hin : a + n ≤ l.length) : s.peekBytes (s.rcur + a) n = (l.drop a).take n := by
  subst hbytes
  rw [State.unreadBytes, State.peekBytes_sub]
  simpa [State.unreadBytes] using hin

theorem State.peekU16_eq_of_leBytes {p : Nat} {v : Half} (hbytes : s.peekBytes p 2 = leBytes 2 v) :
    s.peekU16 p = v := by
  refine BitVec.eq_of_toNat_eq ?_
  rw [State.peekU16_toNat, hbytes, uLe_leBytes, Nat.mod_eq_of_lt v.isLt]

/-- The frame `id`, `payload` stands at the read cursor, all of it unread, and fits the ring. -/
structure State.FrameAtRcur (s : State) (id : Half) (payload rest : List Byte) : Prop where
  bytes : s.unreadBytes = frame s.cfg id payload ++ rest
  known : id.toNat < 2
  fits : 12 + payload.length < s.cfg.capacity
  capacity_le : s.cfg.capacity ≤ 65536

theorem State.FrameAtRcur.unread_eq (h : s.FrameAtRcur id payload rest) :
    s.unread = 12 + payload.length + rest.length := by
  have hlen := congrArg List.length h.bytes
  rwa [State.unreadBytes, State.peekBytes_length, List.length_append, frame_length] at hlen

theorem State.FrameAtRcur.peekBytes_eq (h : s.FrameAtRcur id payload rest) {a n : Nat}
    (hin : a + n ≤ 12 + payload.length) :
    s.peekBytes (s.rcur + a) n = ((frame s.cfg id payload ++ rest).drop a).take n :=
  State.peekBytes_of_unreadBytes h.bytes (by rw [List.length_append, frame_length]; omega)

theorem State.FrameAtRcur.preamble (h : s.FrameAtRcur id payload rest) : s.peekU32 s.rcur = s.cfg.preamble :=
  (s.peekU32_eq_iff _ _).2 ((h.peekBytes_eq (a := 0) (by omega)).trans (frame_take_preamble ..))

theorem State.FrameAtRcur.id_eq (h : s.FrameAtRcur id payload rest) : s.peekU16 (s.rcur + 4) = id :=
  State.peekU16_eq_of_leBytes ((h.peekBytes_eq (by omega)).trans (frame_take_id ..))

theorem State.FrameAtRcur.length_eq (h : s.FrameAtRcur id payload rest) :
    (s.peekU16 (s.rcur + 6)).toNat = 12 + payload.length := by
  have hfits := h.fits
  have hcap := h.capacity_le
  rw [State.peekU16_eq_of_leBytes ((h.peekBytes_eq (by omega)).trans (frame_take_length ..)), BitVec.toNat_ofNat,
    Nat.mod_eq_of_lt (by omega)]

theorem State.FrameAtRcur.valid (h : s.FrameAtRcur id payload rest) : s.candidateValid := by
  have hfits := h.fits
  rw [State.candidateValid, headerValid, h.id_eq, h.length_eq]
  exact ⟨h.known, hfits, Nat.le_add_right ..⟩

theorem State.FrameAtRcur.body_eq (h : s.FrameAtRcur id payload rest) : s.candidateBody = payload := by
  rw [State.candidateBody, h.length_eq, Nat.add_sub_cancel_left, State.peekBytes_mod,
    h.peekBytes_eq (by omega), frame_drop_header, List.take_left' rfl]

theorem State.FrameAtRcur.field_eq (h : s.FrameAtRcur id payload rest) :
    s.candidateField = checksum payload := by
  have hpos : s.rcur + (12 + payload.length) - 4 = s.rcur + (8 + payload.length) := by omega
  rw [State.candidateField, State.peekU32_eq_iff, State.peekBytes_mod, h.length_eq, hpos,
    h.peekBytes_eq (by omega), frame_take_checksum]

theorem State.FrameAtRcur.unread_advanceRead (h : s.FrameAtRcur id payload rest) (hring : s.RingInv) :
    (s.advanceRead (12 + payload.length)).unread = rest.length := by
  have hunread := h.unread_eq
  have hleft := State.unread_advanceRead hring.wcur_lt hring.rcur_lt (n := 12 + payload.length) (by omega)
  omega

/-- A pass that stands on a frame consumes and delivers it, and nothing of the bytes behind it. -/
theorem State.FrameAtRcur.searchPass_eq (h : s.FrameAtRcur id payload rest) :
    s.searchPass = .done (s.advanceRead (12 + payload.length)) (frameDecoded id payload) := by
  have hunread := h.unread_eq
  have hmore : ¬ s.unread ≤ 8 := by omega
  have hall : ¬ s.unread < 12 + payload.length := by omega
  rw [State.searchPass_eq, if_neg hmore, if_neg (not_not.2 h.preamble), if_neg (not_not.2 h.valid), h.length_eq,
    if_neg hall, h.body_eq, h.field_eq, if_pos rfl, h.id_eq]

end

end Sys2Proof.Machine
end

section
/-! PROOFS. TRY_READ run from the result of the loop of R163 on the drained state. -/

namespace Sys2Proof.Machine

variable {s t : State} {r : Response}

/-- The state machine comes to CHECK with the state drained, two transitions from its start. -/
theorem fsmRun_to_check (n : Nat) :
    fsmRun (n + 2) (s.setFsm .idle) = fsmRun n ((s.drain.setLatch s.latch).setFsm .check) := by
  have hdrain : (s.setFsm .drain).drain = (s.drain.setLatch s.latch).setFsm .drain :=
    State.drainFrom_setLatch_setFsm s.rxq s s.latch .drain
  have hgo := FsmGoes.drain (s := s.setFsm .drain) rfl
  rw [hdrain] at hgo
  calc fsmRun (n + 2) (s.setFsm .idle) = fsmRun (n + 1) ((s.setFsm .idle).setFsm .drain) :=
        fsmRun_goTo (FsmGoes.idle rfl).fsmStep_eq
    _ = fsmRun n (((s.drain.setLatch s.latch).setFsm .drain).setFsm .check) := fsmRun_goTo hgo.fsmStep_eq

/-- A loop of at most `C` passes that responds on the drained state is what TRY_READ does (log entry 13). -/
theorem exec_tryRead_of_searchLoop {n : Nat} (hn : n ≤ s.cfg.capacity)
    (hloop : State.searchLoop n s.drain = some (t, r)) :
    exec .tryRead s = .next ((t.setFsm .idle).releaseLatch.respond r) := by
  obtain ⟨l, hrun⟩ := fsmRun_of_searchLoop n s.latch hloop
  have hbound : fsmBound s = 7 * n + 7 * (s.cfg.capacity - n) + 2 := by rw [fsmBound]; omega
  have hmachine : fsmRun (fsmBound s) (s.setFsm .idle) = some ((t.setLatch l).setFsm .idle, r) := by
    rw [hbound, fsmRun_to_check]
    exact fsmRun_mono hrun _
  calc exec .tryRead s = .next (((t.setLatch l).setFsm .idle).releaseLatch.respond r) :=
        exec_tryRead_of_fsmRun hmachine
    _ = .next ((t.setFsm .idle).releaseLatch.respond r) := rfl

theorem State.searchLoop_of_done (hpass : s.searchPass = .done t r) : State.searchLoop 1 s = some (t, r) := by
  simp only [State.searchLoop, hpass]

end Sys2Proof.Machine
end

section
/-! PROOFS. A frame that one node sends and another receives (`20_memory.md` R64). -/

namespace Sys2Proof.Machine

variable {s : State} {id : Half} {payload : List Byte}

/-- TRY_READ on a state whose drain brings a frame to the read cursor. -/
theorem exec_tryRead_of_frameAtRcur {rest : List Byte} (hring : s.RingInv)
    (hframe : s.drain.FrameAtRcur id payload rest) : exec .tryRead s = .next
      (((s.drain.advanceRead (12 + payload.length)).setFsm .idle).releaseLatch.respond
        (frameDecoded id payload)) :=
  exec_tryRead_of_searchLoop (n := 1) hring.capacity_pos (State.searchLoop_of_done hframe.searchPass_eq)

/-- A frame that arrives alone at an empty block stands at its read cursor after the drain. -/
theorem State.RingInv.frameAtRcur_drain (hring : s.RingInv) (hempty : s.unread = 0)
    (hrxq : s.rxq = frame s.cfg id payload) (hid : id.toNat < 2) (hfits : 12 + payload.length < s.cfg.capacity) :
    s.drain.FrameAtRcur id payload [] := by
  obtain ⟨-, hcap, -⟩ := hring.cfg_wf
  have hlen : s.rxq.length < s.cfg.capacity := by rwa [hrxq, frame_length]
  refine ⟨?_, hid, ?_, ?_⟩ <;> rw [State.drain_cfg]
  · rw [hring.drain_unreadBytes, State.stream_of_empty hempty hlen, hrxq, List.append_nil]
  · exact hfits
  · exact hcap

theorem messageId_number_toNat_lt (m : MessageId) : m.number.toNat < 2 := by cases m <;> decide

/-- Settles O40: the frame of the sender is the frame of the receiver, since their preambles agree, and after the
receiver's drain it stands alone at the read cursor. -/
theorem sentFrameIsDeliveredAtThePeer : Obligations.SentFrameIsDeliveredAtThePeer := by
  intro a b m payload hinv _ hpreamble hsize hfits hempty _
  have hring : (b.setRxq (frame a.cfg m.number payload)).RingInv := hinv.ringInv.congr rfl rfl rfl rfl
  have hframe := hring.frameAtRcur_drain hempty (frame_congr a.cfg m.number payload hpreamble)
    (messageId_number_toNat_lt m) hfits
  refine ⟨_, _, _, exec_send_of_legal (State.payload?_eq_some.2 ⟨rfl, hsize⟩), rfl,
    exec_tryRead_of_frameAtRcur hring hframe, ?responses, ?unread, ?status⟩
  case responses =>
    rw [State.respond_responses, State.releaseLatch_responses, State.setFsm_responses, State.advanceRead_responses,
      State.drain_responses]
    rfl
  case unread => exact hframe.unread_advanceRead hring.drain
  case status =>
    refine hring.drain_status_of_fits ?_
    have hempty' : (b.setRxq (frame a.cfg m.number payload)).unread = 0 := hempty
    rw [hempty', State.setRxq_rxq, frame_length, Nat.zero_add]
    exact hfits

end Sys2Proof.Machine
end

section
/-! PROOFS. Fields of a command word (`30_encoding.md` R93) and the masks of the table of R95, as facts about bit
vectors. -/

namespace Sys2Proof

section
variable (op : Byte) (a b : Half)

@[simp] theorem opField_commandWord : opField (commandWord op a b) = op := by
  rw [opField, commandWord, BitVec.extractLsb'_append_eq_of_le (by decide)]
  exact BitVec.extractLsb'_append_eq_left

@[simp] theorem aField_commandWord : aField (commandWord op a b) = a := by
  rw [aField, commandWord, BitVec.extractLsb'_append_eq_of_le (by decide)]
  exact BitVec.extractLsb'_append_eq_right

@[simp] theorem bField_commandWord : bField (commandWord op a b) = b := BitVec.extractLsb'_append_eq_right

end

@[simp] theorem commandWord_fields (w : CmdWord) : commandWord (opField w) (aField w) (bField w) = w := by
  rw [commandWord, opField, aField, bField, BitVec.extractLsb'_append_extractLsb'_eq_extractLsb' (by decide),
    BitVec.extractLsb'_append_extractLsb'_eq_extractLsb' (by decide)]
  exact BitVec.extractLsb'_eq_self

/-- A must-be-zero mask that leaves the low `k` bits free bounds the number by `2 ^ k`. -/
theorem and_allOnes_shiftLeft_eq_zero_iff {n : Nat} (x : BitVec n) (k : Nat) :
    x &&& (BitVec.allOnes n <<< k) = 0#n ↔ x.toNat < 2 ^ k := by
  have hbits : x &&& (BitVec.allOnes n <<< k) = 0#n ↔ ∀ i, k ≤ i → x.getLsbD i = false := by
    simp only [BitVec.eq_of_getLsbD_eq_iff, BitVec.getLsbD_and, BitVec.getLsbD_shiftLeft, BitVec.getLsbD_allOnes,
      BitVec.getLsbD_zero]
    refine ⟨fun h i hk => ?_, fun h i _ => ?_⟩
    · by_cases hi : i < n
      · simpa [hi, Nat.not_lt.2 hk, show i - k < n by omega] using h i hi
      · exact BitVec.getLsbD_of_ge x i (Nat.le_of_not_lt hi)
    · by_cases hk : k ≤ i
      · simp [h i hk]
      · simp [Nat.lt_of_not_le hk]
  rw [hbits]
  exact ⟨Nat.lt_pow_two_of_testBit _, fun h i hk =>
    Nat.testBit_lt_two_pow (Nat.lt_of_lt_of_le h (Nat.pow_le_pow_right (by decide) hk))⟩

theorem setWidth_extractLsb'_of_lt {n k : Nat} {x : BitVec n} (h : x.toNat < 2 ^ k) :
    (x.extractLsb' 0 k).setWidth n = x := by
  apply BitVec.eq_of_toNat_eq
  rw [BitVec.toNat_setWidth, BitVec.extractLsb'_toNat, Nat.shiftRight_zero, Nat.mod_eq_of_lt h,
    Nat.mod_eq_of_lt x.isLt]

theorem extractLsb'_setWidth_of_le {n k : Nat} (x : BitVec k) (h : k ≤ n) :
    (x.setWidth n).extractLsb' 0 k = x := by
  rw [BitVec.extractLsb'_setWidth_of_le (by rwa [Nat.zero_add]), BitVec.extractLsb'_eq_self]

end Sys2Proof
end

section
/-! PROOFS. The decoder (`30_encoding.md` R94, R95, R98): which commands it accepts, said once, and the round trip
with the encoder in both directions. -/

namespace Sys2Proof

variable {o : Op} {a b : Half} {w : CmdWord} {din : List Byte} {i : Instr}

theorem Op.ofCode?_eq_some_iff {code : Byte} : Op.ofCode? code = some o ↔ o.code = code := by
  refine ⟨fun h => by simpa using List.find?_some h, ?_⟩
  rintro rfl
  cases o <;> rfl

/-- Operand fields and `din` as the row of an operation in R95 and R94 has them: not a reserved encoding (R98). -/
structure Op.Accepts (o : Op) (a b : Half) (din : List Byte) : Prop where
  a_zero : a &&& o.zeroA = 0#16
  b_zero : b &&& o.zeroB = 0#16
  din_nil : o.takesDin = false → din = []

theorem decode_of_accepts (hop : o.code = opField w) (h : o.Accepts (aField w) (bField w) din) :
    decode w din = .ok (o.build (aField w) (bField w) din) := by
  have hdin : ¬ (o.takesDin = false ∧ din ≠ []) := fun ⟨ht, hne⟩ => hne (h.din_nil ht)
  simp only [decode, Op.ofCode?_eq_some_iff.2 hop, h.a_zero, h.b_zero, ne_eq, not_true, or_self, if_false]
  exact if_neg hdin

/-- The decoder accepts nothing else. -/
theorem accepts_of_decode_ok (h : decode w din = .ok i) :
    ∃ o : Op, o.code = opField w ∧ o.Accepts (aField w) (bField w) din ∧
      i = o.build (aField w) (bField w) din := by
  unfold decode at h
  split at h
  · cases h
  · rename_i o hop
    split at h
    · cases h
    · rename_i hzero
      split at h
      · cases h
      · rename_i hdin
        obtain ⟨ha, hb⟩ := not_or.1 hzero
        cases h
        exact ⟨o, Op.ofCode?_eq_some_iff.1 hop,
          ⟨not_not.1 ha, not_not.1 hb, fun ht => not_not.1 fun hne => hdin ⟨ht, hne⟩⟩, rfl⟩

/-! ## Decoding an encoded instruction -/

theorem Instr.op_accepts (i : Instr) : i.op.Accepts i.a i.b i.din where
  a_zero := by
    cases i with
    | avail | peek32 | peekb | encode | send => exact BitVec.and_zero
    | push | advance | checksum | tryRead | rdStatus | clrStatus | rdCursors => exact BitVec.zero_and
  b_zero := by
    cases i with
    | push v =>
      refine (and_allOnes_shiftLeft_eq_zero_iff _ 8).2 ?_
      rw [Instr.b, BitVec.toNat_setWidth_of_le (by decide)]
      exact v.isLt
    | clrStatus mask =>
      refine (and_allOnes_shiftLeft_eq_zero_iff _ 3).2 ?_
      rw [Instr.b, BitVec.toNat_setWidth_of_le (by decide)]
      exact mask.isLt
    | peekb | advance | checksum => exact BitVec.and_zero
    | avail | peek32 | encode | send | tryRead | rdStatus | rdCursors => exact BitVec.zero_and
  din_nil := by
    cases i with
    | checksum | encode | send => exact fun htakes => nomatch htakes
    | push | avail | peek32 | peekb | advance | tryRead | rdStatus | clrStatus | rdCursors => exact fun _ => rfl

theorem Instr.build_fields (i : Instr) : i.op.build i.a i.b i.din = i := by
  cases i with
  | push v => exact congrArg Instr.push (extractLsb'_setWidth_of_le v (by decide))
  | clrStatus mask => exact congrArg Instr.clrStatus (extractLsb'_setWidth_of_le mask (by decide))
  | avail | peek32 | peekb | advance | checksum | encode | send | tryRead | rdStatus | rdCursors => rfl

theorem decode_encode (i : Instr) : decode (encode i).1 (encode i).2 = .ok i := by
  have haccepts : i.op.Accepts (aField (encode i).1) (bField (encode i).1) (encode i).2 := by
    simpa only [encode, aField_commandWord, bField_commandWord] using i.op_accepts
  have hop : i.op.code = opField (encode i).1 := by simp only [encode, opField_commandWord]
  rw [decode_of_accepts hop haccepts]
  simp only [encode, aField_commandWord, bField_commandWord, i.build_fields]

/-- Settles O3: the row of an instruction accepts the fields of its word, and builds the instruction from them. -/
theorem decodeOfEncodeIsTheInstruction : Obligations.DecodeOfEncodeIsTheInstruction := decode_encode

theorem decode_of_encode_eq (h : encode i = (w, din)) : decode w din = .ok i := by
  simpa only [h] using decode_encode i

/-- Settles O6: each word is the one that the encoder gives the operation written beside it. -/
theorem wordsOfTheSyntaxRuleDecode : Obligations.WordsOfTheSyntaxRuleDecode := by
  refine ⟨?_, ?_, ?_, ?_, ?_, ?_, ?_, ?_, ?_, ?_, ?_, ?_⟩ <;> exact decode_of_encode_eq rfl

/-! ## Encoding a decoded command -/

@[simp] theorem Op.build_op (o : Op) (a b : Half) (din : List Byte) : (o.build a b din).op = o := by
  cases o <;> rfl

theorem Op.Accepts.build_a (h : o.Accepts a b din) : (o.build a b din).a = a := by
  have ha := h.a_zero
  cases o with
  | avail | peek32 | peekb | encode | send => rfl
  | push | advance | checksum | tryRead | rdStatus | clrStatus | rdCursors =>
    exact (BitVec.and_allOnes.symm.trans ha).symm

theorem Op.Accepts.build_b (h : o.Accepts a b din) : (o.build a b din).b = b := by
  have hb := h.b_zero
  cases o with
  | push => exact setWidth_extractLsb'_of_lt ((and_allOnes_shiftLeft_eq_zero_iff b 8).1 hb)
  | clrStatus => exact setWidth_extractLsb'_of_lt ((and_allOnes_shiftLeft_eq_zero_iff b 3).1 hb)
  | peekb | advance | checksum => rfl
  | avail | peek32 | encode | send | tryRead | rdStatus | rdCursors =>
    exact (BitVec.and_allOnes.symm.trans hb).symm

theorem Op.Accepts.build_din (h : o.Accepts a b din) : (o.build a b din).din = din := by
  have hdin := h.din_nil
  cases o with
  | checksum | encode | send => rfl
  | push | avail | peek32 | peekb | advance | tryRead | rdStatus | clrStatus | rdCursors => exact (hdin rfl).symm

theorem encode_of_decode_ok (h : decode w din = .ok i) : encode i = (w, din) := by
  obtain ⟨o, hop, haccepts, rfl⟩ := accepts_of_decode_ok h
  rw [encode, Op.build_op, haccepts.build_a, haccepts.build_b, haccepts.build_din, hop, commandWord_fields]

theorem encode_and_tableMask (i : Instr) : (encode i).1 &&& i.op.tableMask = i.op.tableMatch := by
  cases i with
  | push v => exact Laws.TableRow.push v
  | avail pos => exact Laws.TableRow.avail pos
  | peek32 pos => exact Laws.TableRow.peek32 pos
  | peekb pos n => exact Laws.TableRow.peekb pos n
  | advance n => exact Laws.TableRow.advance n
  | checksum len din => exact Laws.TableRow.checksum len din
  | encode id din => exact Laws.TableRow.encode id din
  | send id din => exact Laws.TableRow.send id din
  | tryRead => exact Laws.TableRow.tryRead
  | rdStatus => exact Laws.TableRow.rdStatus
  | clrStatus mask => exact Laws.TableRow.clrStatus mask
  | rdCursors => exact Laws.TableRow.rdCursors

/-- Settles O4: what a row builds from fields that it accepts has those fields, and every encoded word lies in its
row of the table. -/
theorem decodedCommandIsTheEncodedOne : Obligations.DecodedCommandIsTheEncodedOne := by
  intro w din i hdecode
  have hencode : encode i = (w, din) := encode_of_decode_ok hdecode
  refine ⟨hencode, ?_⟩
  simpa only [hencode] using encode_and_tableMask i

/-! ## The reserved encodings -/

theorem decode_error_iff : (∃ e, decode w din = .error e) ↔
    ∀ o : Op, o.code = opField w → ¬ o.Accepts (aField w) (bField w) din := by
  constructor
  · rintro ⟨e, he⟩ o hop haccepts
    rw [decode_of_accepts hop haccepts] at he
    cases he
  · intro hnone
    cases hdecode : decode w din with
    | error e => exact ⟨e, rfl⟩
    | ok i =>
      obtain ⟨o, hop, haccepts, -⟩ := accepts_of_decode_ok hdecode
      exact absurd haccepts (hnone o hop)

/-- The column `op` of R95. -/
theorem exists_op_code_iff {code : Byte} : (∃ o : Op, o.code = code) ↔
    code ∈ [0x01#8, 0x02#8, 0x03#8, 0x04#8, 0x05#8, 0x10#8, 0x20#8, 0x21#8, 0x30#8, 0xF0#8, 0xF1#8, 0xF2#8] := by
  have hcolumn : Op.all.map Op.code =
    [0x01#8, 0x02#8, 0x03#8, 0x04#8, 0x05#8, 0x10#8, 0x20#8, 0x21#8, 0x30#8, 0xF0#8, 0xF1#8, 0xF2#8] := rfl
  have hall : ∀ o : Op, o ∈ Op.all := by rintro ⟨⟩ <;> decide
  simp only [← hcolumn, List.mem_map, hall, true_and]

/-- The column `a` of R95: all of it or nothing must be 0. -/
theorem Op.and_zeroA_ne_zero_iff (o : Op) (a : Half) : a &&& o.zeroA ≠ 0#16 ↔
    o.code ∈ [0x01#8, 0x05#8, 0x10#8, 0x30#8, 0xF0#8, 0xF1#8, 0xF2#8] ∧ a ≠ 0#16 := by
  have hcolumn : o.zeroA = if o.code ∈ [0x01#8, 0x05#8, 0x10#8, 0x30#8, 0xF0#8, 0xF1#8, 0xF2#8]
      then BitVec.allOnes 16 else 0#16 := by cases o <;> rfl
  rw [hcolumn]
  split
  next hmem => rw [BitVec.and_allOnes, and_iff_right hmem]
  next hmem => rw [BitVec.and_zero]; exact ⟨fun h => absurd rfl h, fun h => absurd h.1 hmem⟩

/-- The column `b` of R95: all of it or nothing must be 0, or PUSH's byte or CLR_STATUS's mask stands in its low
bits. -/
theorem Op.and_zeroB_ne_zero_iff (o : Op) (b : Half) : b &&& o.zeroB ≠ 0#16 ↔
    (o.code ∈ [0x02#8, 0x03#8, 0x20#8, 0x21#8, 0x30#8, 0xF0#8, 0xF2#8] ∧ b ≠ 0#16) ∨
    (o.code = 0x01#8 ∧ 256 ≤ b.toNat) ∨ (o.code = 0xF1#8 ∧ 8 ≤ b.toNat) := by
  have hbyte : b &&& 0xFF00#16 ≠ 0#16 ↔ 256 ≤ b.toNat :=
    (and_allOnes_shiftLeft_eq_zero_iff b 8).not.trans Nat.not_lt
  have hmask : b &&& 0xFFF8#16 ≠ 0#16 ↔ 8 ≤ b.toNat :=
    (and_allOnes_shiftLeft_eq_zero_iff b 3).not.trans Nat.not_lt
  have hfull : b &&& 0xFFFF#16 = b := BitVec.and_allOnes
  cases o with
  | push => simpa [Op.zeroB, Op.code] using hbyte
  | clrStatus => simpa [Op.zeroB, Op.code] using hmask
  | peekb | advance | checksum => simp [Op.zeroB, Op.code]
  | avail | peek32 | encode | send | tryRead | rdStatus | rdCursors => simp [Op.zeroB, Op.code, hfull]

/-- The column `din` of R95. -/
theorem Op.takesDin_eq_false_iff (o : Op) : o.takesDin = false ↔ o.code ∉ [0x10#8, 0x20#8, 0x21#8] := by
  cases o <;> decide

theorem Op.not_accepts_iff : ¬ o.Accepts a b din ↔
    a &&& o.zeroA ≠ 0#16 ∨ b &&& o.zeroB ≠ 0#16 ∨ (o.takesDin = false ∧ din ≠ []) := by
  have haccepts : o.Accepts a b din ↔
      a &&& o.zeroA = 0#16 ∧ b &&& o.zeroB = 0#16 ∧ (o.takesDin = false → din = []) :=
    ⟨fun h => ⟨h.a_zero, h.b_zero, h.din_nil⟩, fun ⟨ha, hb, hdin⟩ => ⟨ha, hb, hdin⟩⟩
  rw [haccepts, not_and_or, not_and_or, Classical.not_imp]

/-- Settles O5: an `op` that no row has is reserved, and in a row a command is reserved as the row's columns say. -/
theorem reservedEncodingsAreExactlyThoseOfTheTable : Obligations.ReservedEncodingsAreExactlyThoseOfTheTable := by
  intro w din
  rw [decode_error_iff]
  by_cases hrow : ∃ o : Op, o.code = opField w
  case neg =>
    exact iff_of_true (fun o hop => absurd ⟨o, hop⟩ hrow) (.inl (exists_op_code_iff.not.1 hrow))
  case pos =>
    obtain ⟨o, hop⟩ := hrow
    have hone : (∀ p : Op, p.code = opField w → ¬ p.Accepts (aField w) (bField w) din) ↔
        ¬ o.Accepts (aField w) (bField w) din := by
      refine ⟨fun h => h o hop, fun h p hp => ?_⟩
      have hpo : some p = some o := (Op.ofCode?_eq_some_iff.2 hp).symm.trans (Op.ofCode?_eq_some_iff.2 hop)
      rwa [Option.some.inj hpo]
    rw [hone, Op.not_accepts_iff, o.and_zeroA_ne_zero_iff, o.and_zeroB_ne_zero_iff, o.takesDin_eq_false_iff, hop,
      or_iff_right (not_not.2 (exists_op_code_iff.1 ⟨o, hop⟩)), or_assoc, or_assoc]

end Sys2Proof
end

section
/-! PROOFS. The two refusals, of reserved commands and of illegal operands, and what is answered when the operands
are legal (`30_encoding.md` R97, R98; log entry 10). -/

namespace Sys2Proof.Machine

variable {s t : State} {i : Instr} {r : Response}

/-! ## A reserved command -/

section
variable {w : CmdWord} {din : List Byte} {rest : List Input} {e : DecodeError}

theorem State.nextOffer_of_decode_error (hinputs : s.inputs = .command w din :: rest)
    (hdecode : decode w din = .error e) : s.nextOffer = .reserved e s.dropInput := by
  simp only [State.nextOffer, hinputs, hdecode]

theorem step_of_nextOffer_reserved (hwf : s.cfg.wf) (hoffer : s.nextOffer = .reserved e t) :
    step s = .next t.refuseCommand := by
  simp only [step, if_pos hwf, hoffer]

theorem answeredBadCmd_of_decode_error (hdecode : decode w din = .error e) : AnsweredBadCmd w din := by
  intro s rest hwf hinputs
  have hoffer : s.nextOffer = .reserved e s.dropInput := State.nextOffer_of_decode_error hinputs hdecode
  calc step s = .next s.dropInput.refuseCommand := step_of_nextOffer_reserved hwf hoffer
    _ = .next { s with inputs := rest, responses := s.responses ++ [⟨.badCmd, 0#16, 0#32, []⟩] } := by
      rw [State.dropInput_of_inputs_cons hinputs]; rfl

/-- Settles O8: the command is offered as reserved, and the step of a valid configuration refuses what is. -/
theorem reservedCommandIsAnsweredBadCmd : Obligations.ReservedCommandIsAnsweredBadCmd :=
  fun _ _ _ hdecode => answeredBadCmd_of_decode_error hdecode

end

/-! ## Operands -/

theorem State.payload?_eq_none_iff {id : Half} {din : List Byte} :
    s.payload? id din = none ↔ s.cfg.payloadLegal id din = false := by
  unfold State.payload? Config.payloadLegal
  cases MessageId.ofNumber? id with
  | none => simp
  | some m => simp

theorem exec_of_wellFormed_eq_false (hi : i.wellFormed s.cfg = false) : exec i s = .next s.refuseOperand := by
  cases i with
  | avail | peek32 => exact if_neg (of_decide_eq_false hi)
  | peekb pos n =>
    rw [Instr.wellFormed, ← Bool.decide_and] at hi
    exact if_neg (of_decide_eq_false hi)
  | checksum len din => exact if_neg (beq_eq_false_iff_ne.1 hi)
  | encode id din => exact exec_encode_of_illegal (State.payload?_eq_none_iff.2 hi)
  | send id din => exact exec_send_of_illegal (State.payload?_eq_none_iff.2 hi)
  | push | advance | tryRead | rdStatus | clrStatus | rdCursors => cases hi

/-- What a command with legal operands is answered with: OK, or NO_FRAME or REFUSED_FULL and nothing else. -/
def Response.OfLegal (r : Response) : Prop :=
  r.code = .ok ∨ r = Response.bare .noFrame ∨ r = Response.bare .refusedFull

theorem FsmEnds.response_ofLegal (hend : FsmEnds s t r) : r.OfLegal := by
  cases hend with
  | check | len => exact .inr (.inl rfl)
  | verdict => exact .inl rfl

theorem FsmGoes.responses_eq (hgo : FsmGoes s t) : t.responses = s.responses := by
  rw [(fsmStep_frame s).1 t hgo.fsmStep_eq]

theorem exec_tryRead_response (h : exec .tryRead s = .next t) :
    ∃ r : Response, t.responses = s.responses ++ [r] ∧ r.OfLegal := by
  obtain ⟨u, r, hrun, rfl⟩ := execTryRead_cases h
  have hstart : (s.setFsm .idle).responses = s.responses := rfl
  obtain ⟨v, hv, hend⟩ := fsmRun_last (P := fun v => v.responses = s.responses)
    (fun _ _ hu hgo => hgo.responses_eq.trans hu) _ hstart hrun
  refine ⟨r, ?_, hend.response_ofLegal⟩
  rw [State.respond_responses, State.releaseLatch_responses, hend.eq_setLatch_setFsm, State.setFsm_responses,
    State.setLatch_responses, hv]

theorem exec_response_of_wellFormed (hi : i.wellFormed s.cfg = true) (h : exec i s = .next t) :
    ∃ r : Response, t.responses = s.responses ++ [r] ∧ r.OfLegal := by
  cases i with
  | push v =>
    obtain ⟨-, rfl⟩ | ⟨-, rfl⟩ := execPush_cases h
    · exact ⟨_, rfl, .inr (.inr rfl)⟩
    · exact ⟨_, rfl, .inl rfl⟩
  | avail pos =>
    obtain ⟨-, rfl⟩ | ⟨hpos, -⟩ := execAvail_cases h
    · exact ⟨_, rfl, .inl rfl⟩
    · exact absurd (of_decide_eq_true hi) hpos
  | peek32 pos =>
    obtain ⟨-, rfl⟩ | ⟨hpos, -⟩ := execPeek32_cases h
    · exact ⟨_, rfl, .inl rfl⟩
    · exact absurd (of_decide_eq_true hi) hpos
  | peekb pos n =>
    rw [Instr.wellFormed, ← Bool.decide_and] at hi
    obtain ⟨-, rfl⟩ | ⟨hlegal, -⟩ := execPeekb_cases h
    · exact ⟨_, rfl, .inl rfl⟩
    · exact absurd (of_decide_eq_true hi) hlegal
  | advance n =>
    obtain rfl := execAdvance_cases h
    exact ⟨_, rfl, .inl rfl⟩
  | checksum len din =>
    obtain ⟨-, rfl⟩ | ⟨hlen, -⟩ := execChecksum_cases h
    · exact ⟨_, rfl, .inl rfl⟩
    · exact absurd (eq_of_beq hi) hlen
  | encode id din =>
    obtain ⟨m, -, rfl⟩ | ⟨hm, -⟩ := execEncode_cases h
    · exact ⟨_, rfl, .inl rfl⟩
    · exact absurd hi (Bool.eq_false_iff.1 (State.payload?_eq_none_iff.1 hm))
  | send id din =>
    obtain ⟨m, -, rfl⟩ | ⟨hm, -⟩ := execSend_cases h
    · exact ⟨_, rfl, .inl rfl⟩
    · exact absurd hi (Bool.eq_false_iff.1 (State.payload?_eq_none_iff.1 hm))
  | tryRead => exact exec_tryRead_response h
  | rdStatus =>
    obtain rfl := execRdStatus_cases h
    exact ⟨_, rfl, .inl rfl⟩
  | clrStatus mask =>
    obtain rfl := execClrStatus_cases h
    exact ⟨_, rfl, .inl rfl⟩
  | rdCursors =>
    obtain rfl := execRdCursors_cases h
    exact ⟨_, rfl, .inl rfl⟩

theorem Response.OfLegal.code_ne (h : r.OfLegal) : r.code ≠ .badOperand ∧ r.code ≠ .badCmd := by
  obtain hok | rfl | rfl := h
  · rw [hok]; decide
  · decide
  · decide

/-- Settles O9: the operands that `Instr.wellFormed` tells apart are those that the meanings refuse, and an
operation that refuses nothing answers as `Response.OfLegal` says. -/
theorem illegalOperandsAreAnsweredBadOperand : Obligations.IllegalOperandsAreAnsweredBadOperand := by
  refine fun i s t => ⟨exec_of_wellFormed_eq_false, fun hi hrun => ?_⟩
  obtain ⟨r, hresponses, hlegal⟩ := exec_response_of_wellFormed hi hrun
  exact ⟨r, hresponses, hlegal.code_ne⟩

end Sys2Proof.Machine
end

section
/-! PROOFS. From a state with the invariant every operation completes, TRY_READ because each pass of its search that
goes round again gives up unread bytes (`43_frame_decoder.md` R164); so every command has its one response. -/

namespace Sys2Proof.Machine

variable {s t : State} {i : Instr} {r : Response}

theorem State.RingInv.searchPass_again (h : s.RingInv) (hpass : s.searchPass = .again t) :
    t.RingInv ∧ t.unread < s.unread := by
  obtain ⟨n, e, hn, hle, rfl⟩ := State.searchPass_again hpass
  refine ⟨(h.advanceRead n).congr rfl rfl rfl rfl, ?_⟩
  have hunread : (s.advanceRead n).unread + n = s.unread := State.unread_advanceRead h.wcur_lt h.rcur_lt hle
  have hraise : ((s.advanceRead n).raise e).unread = (s.advanceRead n).unread := rfl
  omega

/-- More passes than there are unread bytes are enough. -/
theorem State.RingInv.searchLoop_completes (h : s.RingInv) {n : Nat} (hn : s.unread < n) :
    ∃ t r, State.searchLoop n s = some (t, r) := by
  induction n generalizing s with
  | zero => exact absurd hn (Nat.not_lt_zero _)
  | succ n ih =>
    simp only [State.searchLoop]
    cases hpass : s.searchPass with
    | done t r => exact ⟨t, r, rfl⟩
    | again t =>
      obtain ⟨hring, hless⟩ := h.searchPass_again hpass
      exact ih hring (by omega)

theorem State.RingInv.exec_completes (h : s.RingInv) (i : Instr) : ∃ t, exec i s = .next t := by
  by_cases hi : i = .tryRead
  · subst hi
    have hroom : s.drain.unread < s.cfg.capacity := by
      have hlt := State.availableFrom_lt h.drain.wcur_lt h.drain.rcur_lt
      rwa [State.drain_cfg] at hlt
    obtain ⟨t, r, hloop⟩ := h.drain.searchLoop_completes hroom
    exact ⟨_, exec_tryRead_of_searchLoop (Nat.le_refl _) hloop⟩
  · obtain ⟨f, -, hrun⟩ := exec_effect s hi
    exact ⟨_, hrun s.status s.latch s.fsm fun _ => rfl⟩

theorem Response.OfLegal.eq_bare (h : r.OfLegal) (hok : r.code ≠ .ok) : r = Response.bare r.code := by
  obtain hcode | rfl | rfl := h
  · exact absurd hcode hok
  · rfl
  · rfl

theorem Code.number_toNat_le (c : Code) : c.number.toNat ≤ 4 := by cases c <;> decide

/-- An operation has one response, and with a code other than OK that is all of it. -/
theorem State.RingInv.exec_response (h : s.RingInv) (i : Instr) : ∃ t r, exec i s = .next t ∧
    t.responses = s.responses ++ [r] ∧ (r.code ≠ .ok → r = Response.bare r.code) := by
  cases hi : i.wellFormed s.cfg with
  | true =>
    obtain ⟨t, hrun⟩ := h.exec_completes i
    obtain ⟨r, hresponses, hlegal⟩ := exec_response_of_wellFormed hi hrun
    exact ⟨t, r, hrun, hresponses, hlegal.eq_bare⟩
  | false => exact ⟨_, _, exec_of_wellFormed_eq_false hi, rfl, fun _ => rfl⟩

/-- The same of a command, reserved or not. -/
theorem State.RingInv.step_response (h : s.RingInv) {w : CmdWord} {din : List Byte} {rest : List Input}
    (hinputs : s.inputs = .command w din :: rest) : ∃ t r, step s = .next t ∧
    t.responses = s.responses ++ [r] ∧ (r.code ≠ .ok → r = Response.bare r.code) := by
  cases hdecode : decode w din with
  | error e =>
    exact ⟨_, _, answeredBadCmd_of_decode_error hdecode s rest h.cfg_wf hinputs, rfl, fun _ => rfl⟩
  | ok i =>
    rw [runsAs_of_decode_ok hdecode s rest h.cfg_wf hinputs]
    have htaken : ({ s with inputs := rest } : State).RingInv := h.congr rfl rfl rfl rfl
    exact htaken.exec_response i

/-- Settles O56: every command completes with one response, and a bare one carries its code only. -/
theorem everyCommandHasExactlyOneResponse : Obligations.EveryCommandHasExactlyOneResponse := by
  intro s w din rest hinv hinputs
  obtain ⟨t, r, hstep, hresponses, hbare⟩ := hinv.ringInv.step_response hinputs
  refine ⟨t, r, hstep, hresponses, fun hok => ?_, r.code.number_toNat_le⟩
  have hr : r = Response.bare r.code := hbare hok
  exact ⟨congrArg Response.id hr, congrArg Response.val hr, congrArg Response.data hr⟩

end Sys2Proof.Machine
end

section
/-! PROOFS. The arithmetic of the cursors (`40_ring_buffer.md` R118): what full means, and the laws on integers. -/

namespace Sys2Proof.Machine

variable {s : State}

@[simp] theorem ringCount_self (c p : Nat) : ringCount c p p = 0 := by
  rw [ringCount, if_pos (Nat.le_refl p), Nat.sub_self]

/-- The count is at its greatest where one more byte would bring the write cursor round to the position. -/
theorem ringCount_eq_pred_iff {c w p : Nat} (hw : w < c) (hp : p < c) :
    ringCount c w p = c - 1 ↔ (w + 1) % c = p := by
  rw [mod_add_cases hw (by omega)]
  unfold ringCount
  split <;> split <;> omega

/-- R118 law 2, on integers. -/
theorem State.availableFrom_eq_emod {p : Nat} (hw : s.wcur < s.cfg.capacity) (hp : p < s.cfg.capacity) :
    (s.availableFrom p : Int) = ((s.wcur : Int) - p) % s.cfg.capacity := by
  have hle : p ≤ s.cfg.capacity + s.wcur := by omega
  rw [State.availableFrom_eq_mod hw hp]
  push_cast [hle]
  rw [add_sub_assoc, Int.add_emod_left]

theorem State.full_iff (hw : s.wcur < s.cfg.capacity) (hr : s.rcur < s.cfg.capacity) :
    s.full ↔ (s.wcur + 1) % s.cfg.capacity = s.rcur := ringCount_eq_pred_iff hw hr

/-- A stored byte is counted from every position but the one at which the write cursor now stands (R118 law 3). -/
theorem State.availableFrom_storeByte (v : Byte) {p : Nat} (hw : s.wcur < s.cfg.capacity)
    (hp : p < s.cfg.capacity) (hne : p ≠ (s.storeByte v).wcur) :
    (s.storeByte v).availableFrom p = s.availableFrom p + 1 :=
  ringCount_push hw hp fun hmax => hne ((ringCount_eq_pred_iff hw hp).1 hmax).symm

/-- Two advances add up, within the unread region or not (R118 law 5). -/
theorem State.advanceRead_advanceRead (s : State) (n m : Nat) :
    (s.advanceRead n).advanceRead m = s.advanceRead (n + m) := by
  simp only [State.advanceRead, Nat.mod_add_mod, Nat.add_assoc]

theorem State.advanceRead_capacity (hr : s.rcur < s.cfg.capacity) : s.advanceRead s.cfg.capacity = s := by
  rw [State.advanceRead, Nat.add_mod_right, Nat.mod_eq_of_lt hr]

/-- R118 law 4 for every `n`: beyond the unread region the count goes round modulo `C`. -/
theorem State.unread_advanceRead_eq_emod (hw : s.wcur < s.cfg.capacity) (hr : s.rcur < s.cfg.capacity) (n : Nat) :
    ((s.advanceRead n).unread : Int) = ((s.unread : Int) - n) % s.cfg.capacity := by
  have hpos : 0 < s.cfg.capacity := Nat.zero_lt_of_lt hw
  calc ((s.advanceRead n).unread : Int)
      = ((s.wcur : Int) - ((s.rcur + n) % s.cfg.capacity : Nat)) % s.cfg.capacity :=
        State.availableFrom_eq_emod (s := s.advanceRead n) hw (Nat.mod_lt _ hpos)
    _ = ((s.wcur : Int) - s.rcur - n) % s.cfg.capacity := by
        rw [Int.natCast_mod, Int.sub_emod_emod, Nat.cast_add, sub_sub]
    _ = ((s.unread : Int) - n) % s.cfg.capacity := by
        rw [State.availableFrom_eq_emod hw hr, Int.emod_sub_emod]

/-- Settles O58: each law from the lemma about it; the greatest count is where the new write cursor stands. -/
theorem lawsOfTheCursorArithmetic : Obligations.LawsOfTheCursorArithmetic := by
  intro s hinv
  obtain ⟨hw, hr⟩ : s.wcur < s.cfg.capacity ∧ s.rcur < s.cfg.capacity := ⟨hinv.wcur_lt, hinv.rcur_lt⟩
  have hnew : (s.wcur + 1) % s.cfg.capacity < s.cfg.capacity := Nat.mod_lt _ hinv.ringInv.capacity_pos
  exact ⟨fun p hp => ⟨State.availableFrom_eq_emod hw hp, State.availableFrom_lt hw hp⟩,
    fun v p hp hne => State.availableFrom_storeByte v hw hp hne,
    fun v => ⟨ringCount_self .., (ringCount_eq_pred_iff hw hnew).2 rfl⟩,
    fun n hn => State.unread_advanceRead hw hr hn,
    s.advanceRead_advanceRead, State.advanceRead_capacity hr, State.full_iff hw hr⟩

end Sys2Proof.Machine
end

section
/-! PROOFS. The commands of one row of the table of `30_encoding.md` R95: run as its operation, or refused. -/

namespace Sys2Proof

variable {o : Op} {a b : Half} {din : List Byte}

theorem Op.code_injective : Function.Injective Op.code := by
  intro o p hcode
  have hsome : some o = some p := (Op.ofCode?_eq_some_iff.2 rfl).symm.trans (Op.ofCode?_eq_some_iff.2 hcode.symm)
  exact Option.some.inj hsome

theorem Op.accepts_iff : o.Accepts a b din ↔
    a &&& o.zeroA = 0#16 ∧ b &&& o.zeroB = 0#16 ∧ (o.takesDin = false → din = []) :=
  ⟨fun ⟨ha, hb, hdin⟩ => ⟨ha, hb, hdin⟩, fun ⟨ha, hb, hdin⟩ => ⟨ha, hb, hdin⟩⟩

theorem Op.accepts_iff_of_no_din (ho : o.takesDin = false) : o.Accepts a b din ↔
    a &&& o.zeroA = 0#16 ∧ b &&& o.zeroB = 0#16 ∧ din = [] := by
  rw [Op.accepts_iff, imp_iff_right ho]

/-- A command with the code of a row runs as the row's operation when the row accepts its operand fields and
`din`, and is answered BAD_CMD when not. -/
theorem Op.commandWord_answered {P : Prop} (hrow : o.Accepts a b din ↔ P) :
    (P → Machine.RunsAs (commandWord o.code a b) din (o.build a b din)) ∧
    (¬ P → Machine.AnsweredBadCmd (commandWord o.code a b) din) := by
  constructor
  · intro hP
    refine Machine.runsAs_of_decode_ok ?_
    have haccepts : o.Accepts (aField (commandWord o.code a b)) (bField (commandWord o.code a b)) din := by
      rw [aField_commandWord, bField_commandWord]
      exact hrow.2 hP
    rw [decode_of_accepts (opField_commandWord ..).symm haccepts, aField_commandWord, bField_commandWord]
  · intro hP
    obtain ⟨e, he⟩ : ∃ e, decode (commandWord o.code a b) din = .error e := by
      refine decode_error_iff.2 fun p hp haccepts => hP (hrow.1 ?_)
      rw [opField_commandWord] at hp
      rwa [Op.code_injective hp, aField_commandWord, bField_commandWord] at haccepts
    exact Machine.answeredBadCmd_of_decode_error he

end Sys2Proof
end

section
/-! PROOFS. The Ring Buffer operations (`40_ring_buffer.md` R110 to R117): which commands are theirs, and their next
state by the branch they take. -/

namespace Sys2Proof

/-! ## Their rows of `30_encoding.md` R95 -/

section
variable {a b : Half} {din : List Byte}

theorem accepts_push_iff : Op.push.Accepts a b din ↔ a = 0#16 ∧ b.toNat < 256 ∧ din = [] := by
  have ha : a &&& Op.push.zeroA = a := BitVec.and_allOnes
  have hb : b &&& Op.push.zeroB = 0#16 ↔ b.toNat < 256 := and_allOnes_shiftLeft_eq_zero_iff b 8
  rw [Op.accepts_iff_of_no_din rfl, ha, hb]

theorem accepts_avail_iff : Op.avail.Accepts a b din ↔ b = 0#16 ∧ din = [] := by
  have ha : a &&& Op.avail.zeroA = 0#16 := BitVec.and_zero
  have hb : b &&& Op.avail.zeroB = b := BitVec.and_allOnes
  rw [Op.accepts_iff_of_no_din rfl, and_iff_right ha, hb]

theorem accepts_peek32_iff : Op.peek32.Accepts a b din ↔ b = 0#16 ∧ din = [] := by
  have ha : a &&& Op.peek32.zeroA = 0#16 := BitVec.and_zero
  have hb : b &&& Op.peek32.zeroB = b := BitVec.and_allOnes
  rw [Op.accepts_iff_of_no_din rfl, and_iff_right ha, hb]

theorem accepts_peekb_iff : Op.peekb.Accepts a b din ↔ din = [] := by
  have ha : a &&& Op.peekb.zeroA = 0#16 := BitVec.and_zero
  have hb : b &&& Op.peekb.zeroB = 0#16 := BitVec.and_zero
  rw [Op.accepts_iff_of_no_din rfl, and_iff_right ha, and_iff_right hb]

theorem accepts_advance_iff : Op.advance.Accepts a b din ↔ a = 0#16 ∧ din = [] := by
  have ha : a &&& Op.advance.zeroA = a := BitVec.and_allOnes
  have hb : b &&& Op.advance.zeroB = 0#16 := BitVec.and_zero
  rw [Op.accepts_iff_of_no_din rfl, ha, and_iff_right hb]

end

namespace Machine

variable {s : State} {pos n : Half}

/-! ## Their next states -/

theorem exec_push_of_full (v : Byte) (hfull : s.full) :
    exec (.push v) s = .next ((s.raise .overrun).respond (Response.bare .refusedFull)) := if_pos hfull

theorem exec_push_of_room (v : Byte) (hroom : ¬ s.full) :
    exec (.push v) s = .next ((s.storeByte v).respond (Response.bare .ok)) := if_neg hroom

theorem exec_avail_of_legal (hpos : s.posLegal pos) : exec (.avail pos) s =
    .next (s.respond (Response.value (BitVec.ofNat 32 (s.availableFrom pos.toNat)))) := if_pos hpos

theorem exec_peek32_of_legal (hpos : s.posLegal pos) : exec (.peek32 pos) s =
    .next (s.respond (Response.value (s.peekU32 pos.toNat))) := if_pos hpos

theorem exec_peekb_of_legal (hpos : s.posLegal pos) (hn : s.countLegal n) : exec (.peekb pos n) s =
    .next (s.respond (Response.bytes (s.peekBytes pos.toNat n.toNat))) := if_pos ⟨hpos, hn⟩

/-! ## What a PUSH stores and what a read returns -/

theorem State.readByte_storeByte_wcur (s : State) (v : Byte) : (s.storeByte v).readByte s.wcur = v := by
  rw [State.readByte_storeByte, if_pos rfl]

theorem State.readByte_storeByte_other (s : State) (v : Byte) {a : Nat} (ha : a ≠ s.wcur) :
    (s.storeByte v).readByte a = s.readByte a := by
  rw [State.readByte_storeByte, if_neg ha]

theorem State.peekBytes_getElem? (s : State) (p : Nat) {n k : Nat} (hk : k < n) :
    (s.peekBytes p n)[k]? = some (s.readByte ((p + k) % s.cfg.capacity)) := by
  have hlen : k < (s.peekBytes p n).length := by rwa [State.peekBytes_length]
  rw [List.getElem?_eq_getElem hlen, State.peekBytes_getElem]

/-- The bytes of a 32-bit read, its low byte first. -/
theorem State.peekU32_extractLsb' (s : State) (p : Nat) {k : Nat} (hk : k < 4) :
    (s.peekU32 p).extractLsb' (8 * k) 8 = s.readByte ((p + k) % s.cfg.capacity) := by
  have hbytes : s.peekBytes p 4 = leBytes 4 (s.peekU32 p) := (s.peekU32_eq_iff p _).1 rfl
  have hlen : k < (leBytes 4 (s.peekU32 p)).length := by rwa [leBytes_length]
  refine Option.some.inj ?_
  rw [← leBytes_getElem 4 _ k hlen, ← List.getElem?_eq_getElem hlen, ← hbytes, State.peekBytes_getElem? s p hk]

/-- Settles O11: the two branches of R113, and what a read returns after a store. -/
theorem pushStoresAtTheWriteCursorOrRefuses : Obligations.PushStoresAtTheWriteCursorOrRefuses := by
  refine ⟨fun _ _ _ => Op.push.commandWord_answered accepts_push_iff, fun v s => ⟨exec_push_of_full v, ?room⟩⟩
  exact fun hroom => ⟨_, exec_push_of_room v hroom, rfl, s.readByte_storeByte_wcur v,
    fun _ ha => s.readByte_storeByte_other v ha⟩

/-- Settles O12: the two branches of R111 are the model's own, and law 2 of R118 gives the form with the remainder. -/
theorem availCountsForwardToTheWriteCursor : Obligations.AvailCountsForwardToTheWriteCursor := by
  refine ⟨fun _ _ _ => Op.avail.commandWord_answered accepts_avail_iff, fun pos s => ⟨?illegal, ?legal, ?mod⟩⟩
  case illegal => exact fun hpos => exec_of_wellFormed_eq_false (decide_eq_false (Nat.not_lt.2 hpos))
  case legal => exact exec_avail_of_legal
  case mod => exact fun hpos hwcur => State.availableFrom_eq_mod hwcur hpos

/-- Settles O13: the number read has the four bytes, low byte first. -/
theorem peek32ReadsFourBytesLittleEndian : Obligations.Peek32ReadsFourBytesLittleEndian := by
  refine ⟨fun _ _ _ => Op.peek32.commandWord_answered accepts_peek32_iff, fun pos s => ⟨?illegal, ?legal⟩⟩
  case illegal => exact fun hpos => exec_of_wellFormed_eq_false (decide_eq_false (Nat.not_lt.2 hpos))
  case legal =>
    exact fun hpos => ⟨_, exec_peek32_of_legal hpos, fun _ hk => s.peekU32_extractLsb' pos.toNat hk⟩

/-- Settles O14: the bytes read are those of R53, in stream order. -/
theorem peekbCopiesBytesInStreamOrder : Obligations.PeekbCopiesBytesInStreamOrder := by
  refine ⟨fun _ _ _ => Op.peekb.commandWord_answered accepts_peekb_iff, fun pos n s => ⟨?illegal, ?legal⟩⟩
  case illegal =>
    intro hill
    refine exec_of_wellFormed_eq_false (Bool.and_eq_false_iff.2 (hill.imp ?_ ?_))
    · exact fun hpos => decide_eq_false (Nat.not_lt.2 hpos)
    · exact fun hn => decide_eq_false (Nat.not_lt.2 hn)
  case legal =>
    exact fun hpos hn => ⟨_, exec_peekb_of_legal hpos hn, s.peekBytes_length ..,
      fun _ hk => s.peekBytes_getElem? pos.toNat hk⟩

/-- Settles O15: the advance is unguarded, and the unread count follows it by law 4 of R118. -/
theorem advanceMovesTheReadCursor : Obligations.AdvanceMovesTheReadCursor := by
  refine ⟨fun _ _ _ => Op.advance.commandWord_answered accepts_advance_iff, fun n s => ⟨rfl, ?count⟩⟩
  intro hinv t hrun
  obtain rfl := execAdvance_cases hrun
  exact ⟨State.unread_advanceRead hinv.wcur_lt hinv.rcur_lt,
    State.unread_advanceRead_eq_emod hinv.wcur_lt hinv.rcur_lt n.toNat⟩

end Machine
end Sys2Proof
end

section
/-! PROOFS. What the operations leave unchanged: those that store no byte, PUSH, and every step the configuration
(`40_ring_buffer.md` R113, R119, `10_state.md` R28). -/

namespace Sys2Proof.Machine

variable {s t : State} {i : Instr} {f : State → State}

/-! ## Operations that store no byte -/

theorem Effect.powerUp_eq (heff : Effect s i f) (u : State) : (f u).powerUp = u.powerUp := by cases heff <;> rfl

theorem Effect.buf_eq (heff : Effect s i f) (hpush : i.op ≠ .push) (u : State) : (f u).buf = u.buf := by
  cases heff with
  | store => exact absurd rfl hpush
  | reply | refuse | advance | write | clear => rfl

/-- Settles O45: of the effects, only that of PUSH writes `buf`, and each of the others writes the one register of
its operation. -/
theorem operationsThatStoreNothingFrame : Obligations.OperationsThatStoreNothingFrame := by
  intro i s t h
  by_cases hi : i = .tryRead
  · subst hi
    simp [Instr.op]
  · obtain ⟨f, heff, rfl, -⟩ := exec_eq_effect hi h
    refine ⟨fun hop => ?_, fun hop => ?_, fun hop => ?_, fun hop => ?_, fun hop a => ?_⟩
    · cases heff with
      | reply => rfl
      | refuse | store | advance | write | clear => simp [Instr.op] at hop
    · cases heff with
      | reply | advance => rfl
      | refuse | store | write | clear => cases hop
    · cases heff with
      | reply | write => rfl
      | refuse | store | advance | clear => cases hop
    · cases heff with
      | reply | clear => rfl
      | refuse | store | advance | write => cases hop
    · have hpush : i.op ≠ .push := fun heq => hop (heq ▸ List.mem_cons_self)
      exact State.readByte_congr (heff.buf_eq hpush s) (heff.powerUp_eq s) a

/-! ## PUSH -/

/-- The write cursor stands behind the unread bytes, on none of them (`40_ring_buffer.md` R113). -/
theorem State.RingInv.not_inUnread_wcur (h : s.RingInv) : ¬ s.inUnread s.wcur := by
  rintro ⟨k, hk, hidx⟩
  have hlt : s.unread < s.cfg.capacity := State.availableFrom_lt h.wcur_lt h.rcur_lt
  rw [← State.add_availableFrom h.wcur_lt h.rcur_lt] at hidx
  have : s.unread = k := add_mod_injective h.rcur_lt hlt (hk.trans hlt) hidx
  omega

/-- `OVR` is a bit of its own (`10_state.md` R27). -/
theorem State.raise_overrun_rej (s : State) : (s.raise .overrun).rej = s.rej := by
  simp [State.rej, Event.bit]

theorem State.raise_overrun_rsy (s : State) : (s.raise .overrun).rsy = s.rsy := by
  simp [State.rsy, Event.bit]

/-- Settles O46: refused, a PUSH writes STATUS only, and accepted it stores at the write cursor, which is not
unread. -/
theorem pushFrame : Obligations.PushFrame := by
  intro v s t h
  obtain ⟨-, rfl⟩ | ⟨hroom, rfl⟩ := execPush_cases h
  · have hread : ∀ a, ((s.raise .overrun).respond (Response.bare .refusedFull)).readByte a = s.readByte a :=
      State.readByte_congr rfl rfl
    exact ⟨rfl, s.raise_overrun_rej, s.raise_overrun_rsy, fun a _ => hread a, fun _ => hread,
      fun _ a _ => hread a⟩
  · have hread : ∀ a, a ≠ s.wcur → ((s.storeByte v).respond (Response.bare .ok)).readByte a = s.readByte a :=
      fun _ ha => s.readByte_storeByte_other v ha
    refine ⟨rfl, rfl, rfl, hread, fun hfull => absurd hfull hroom, fun hinv a ha => hread a ?_⟩
    rintro rfl
    exact hinv.ringInv.not_inUnread_wcur ha

/-! ## Every step -/

/-- The parameters (`10_state.md` R28) and which construction this is (log entry 6) are those of `s`. -/
def SameBlock (s t : State) : Prop := t.cfg = s.cfg ∧ t.powerUp = s.powerUp

theorem FsmGoes.sameBlock {u : State} (h : SameBlock s u) (hgo : FsmGoes u t) : SameBlock s t := by
  obtain ⟨hcfg, hpower⟩ := h
  rw [(fsmStep_frame u).1 t hgo.fsmStep_eq]
  exact ⟨hcfg, hpower⟩

theorem exec_sameBlock (h : exec i s = .next t) : SameBlock s t := by
  by_cases hi : i = .tryRead
  · subst hi
    obtain ⟨u, r, hu, rfl⟩ := exec_tryRead_induct (fun _ _ => FsmGoes.sameBlock) ⟨rfl, rfl⟩ h
    exact hu
  · obtain ⟨f, heff, rfl, -⟩ := exec_eq_effect hi h
    exact ⟨heff.cfg_eq s, heff.powerUp_eq s⟩

/-- Settles O51, by the four things a step can do. -/
theorem configurationNeverChanges : Obligations.ConfigurationNeverChanges := by
  intro s t hstep
  obtain ⟨-, ⟨-, rfl⟩ | ⟨bytes, -, -, rfl⟩ | ⟨-, -, -, -, -, -, rfl⟩ | ⟨-, -, -, i, -, -, hrun⟩⟩ :=
    step_cases hstep
  · exact ⟨rfl, rfl⟩
  · exact ⟨rfl, rfl⟩
  · exact ⟨rfl, rfl⟩
  · have hsame : SameBlock s.dropInput t := exec_sameBlock hrun
    exact hsame

end Sys2Proof.Machine
end

section
/-! PROOFS. Position independence (`40_ring_buffer.md` R118 law 6): a rotated state gives the same counts and the
same bytes at rotated positions, so each operation goes the same way on it. -/

namespace Sys2Proof.Machine

variable {d : Nat} {s t u : State} {i : Instr} {r : Response}

/-! ## Counts and bytes at rotated positions -/

theorem rotate_mod_inj {c p q : Nat} (hp : p < c) (hq : q < c) : (p + d) % c = (q + d) % c ↔ p = q := by
  refine ⟨fun h => ?_, fun h => h ▸ rfl⟩
  have hmod : p ≡ q [MOD c] := Nat.ModEq.add_right_cancel' d h
  exact Nat.ModEq.eq_of_lt_of_lt hmod hp hq

/-- A count in the ring depends on the distance of its two positions only. -/
theorem ringCount_rotate {c w p : Nat} (hw : w < c) (hp : p < c) :
    ringCount c ((w + d) % c) ((p + d) % c) = ringCount c w p := by
  have hpos : 0 < c := Nat.zero_lt_of_lt hw
  have hend : (w + d) % c = ((p + d) % c + ringCount c w p) % c := by
    conv_lhs => rw [← add_ringCount hw hp]
    rw [Nat.mod_add_mod, Nat.mod_add_mod, Nat.add_right_comm]
  rw [hend]
  exact ringCount_of_add (Nat.mod_lt _ hpos) (ringCount_lt hw hp)

theorem Rotated.availableFrom_eq (h : Rotated d s t) (hw : s.wcur < s.cfg.capacity) {p : Nat}
    (hp : p < s.cfg.capacity) : t.availableFrom ((p + d) % s.cfg.capacity) = s.availableFrom p := by
  rw [State.availableFrom, State.availableFrom, h.cfg_eq, h.wcur_eq, ringCount_rotate hw hp]

theorem Rotated.unread_eq (h : Rotated d s t) (hs : s.RingInv) : t.unread = s.unread := by
  rw [State.unread, h.rcur_eq, h.availableFrom_eq hs.wcur_lt hs.rcur_lt]

theorem Rotated.full_iff (h : Rotated d s t) (hs : s.RingInv) : t.full ↔ s.full := by
  rw [State.full, State.full, h.unread_eq hs, h.cfg_eq]

theorem Rotated.peekBytes_eq (h : Rotated d s t) (hs : s.RingInv) {p q : Nat}
    (hq : q % s.cfg.capacity = (p + d) % s.cfg.capacity) (n : Nat) : t.peekBytes q n = s.peekBytes p n := by
  rw [State.peekBytes, State.peekBytes, h.cfg_eq]
  refine List.map_congr_left fun k _ => ?_
  have hidx : (q + k) % s.cfg.capacity = ((p + k) % s.cfg.capacity + d) % s.cfg.capacity := by
    rw [← Nat.mod_add_mod, hq, Nat.mod_add_mod, Nat.mod_add_mod, Nat.add_right_comm]
  rw [hidx, h.bytes_eq _ (Nat.mod_lt _ hs.capacity_pos)]

theorem Rotated.peekU32_eq (h : Rotated d s t) (hs : s.RingInv) {p q : Nat}
    (hq : q % s.cfg.capacity = (p + d) % s.cfg.capacity) : t.peekU32 q = s.peekU32 p := by
  rw [State.peekU32, State.peekU32, State.memRead, State.memRead, h.peekBytes_eq hs hq]

theorem Rotated.peekU16_eq (h : Rotated d s t) (hs : s.RingInv) {p q : Nat}
    (hq : q % s.cfg.capacity = (p + d) % s.cfg.capacity) : t.peekU16 q = s.peekU16 p := by
  refine BitVec.eq_of_toNat_eq ?_
  rw [State.peekU16_toNat, State.peekU16_toNat, h.peekBytes_eq hs hq]

/-! ## The updates of the state -/

/-- Law 6 does not speak of the responses, and nothing is asked of the two that are given. -/
theorem Rotated.respond (h : Rotated d s t) (r r' : Response) : Rotated d (s.respond r) (t.respond r') :=
  { h with }

theorem Rotated.setFsm (h : Rotated d s t) (q : Fsm) : Rotated d (s.setFsm q) (t.setFsm q) := { h with }

theorem Rotated.releaseLatch (h : Rotated d s t) : Rotated d s.releaseLatch t.releaseLatch := { h with }

theorem Rotated.raise (h : Rotated d s t) (e : Event) : Rotated d (s.raise e) (t.raise e) :=
  { h with status_eq := by rw [State.raise_status, State.raise_status, h.status_eq] }

theorem Rotated.clearFlags (h : Rotated d s t) (mask : BitVec 3) :
    Rotated d (s.clearFlags mask) (t.clearFlags mask) :=
  { h with status_eq := by rw [State.clearFlags_status, State.clearFlags_status, h.status_eq] }

theorem Rotated.setRxq (h : Rotated d s t) (q : List Byte) : Rotated d (s.setRxq q) (t.setRxq q) :=
  { h with rxq_eq := rfl }

theorem Rotated.transportWrite (h : Rotated d s t) (f : List Byte) :
    Rotated d (s.transportWrite f) (t.transportWrite f) :=
  { h with txlog_eq := congrArg (· ++ [f]) h.txlog_eq }

theorem Rotated.advanceRead (h : Rotated d s t) (n : Nat) : Rotated d (s.advanceRead n) (t.advanceRead n) :=
  { h with
    rcur_eq := by
      rw [State.advanceRead_rcur, State.advanceRead_rcur, State.advanceRead_cfg, h.cfg_eq, h.rcur_eq,
        Nat.mod_add_mod, Nat.mod_add_mod, Nat.add_right_comm] }

theorem Rotated.storeByte (h : Rotated d s t) (hs : s.RingInv) (x : Byte) :
    Rotated d (s.storeByte x) (t.storeByte x) :=
  { h with
    wcur_eq := by
      rw [State.storeByte_wcur, State.storeByte_wcur, State.storeByte_cfg, h.cfg_eq, h.wcur_eq,
        Nat.mod_add_mod, Nat.mod_add_mod, Nat.add_right_comm]
    bytes_eq := fun a ha => by
      rw [State.readByte_storeByte, State.readByte_storeByte, State.storeByte_cfg, h.wcur_eq, h.bytes_eq a ha]
      exact if_congr (rotate_mod_inj ha hs.wcur_lt) rfl rfl }

theorem Rotated.resync (h : Rotated d s t) : Rotated d s.resync t.resync := (h.advanceRead 1).raise .syncLoss

theorem Rotated.drain (h : Rotated d s t) (hs : s.RingInv) : Rotated d s.drain t.drain := by
  suffices ∀ q u v, u.RingInv → Rotated d u v → Rotated d (State.drainFrom q u) (State.drainFrom q v) by
    rw [State.drain, State.drain, h.rxq_eq]
    exact this s.rxq s t hs h
  intro q
  induction q with
  | nil => exact fun u v _ huv => huv.setRxq []
  | cons x q ih =>
    intro u v hu huv
    by_cases hfull : u.full
    · rw [State.drainFrom_cons_full x q hfull, State.drainFrom_cons_full x q ((huv.full_iff hu).2 hfull)]
      exact (huv.setRxq _).raise .overrun
    · rw [State.drainFrom_cons x q hfull, State.drainFrom_cons x q ((huv.full_iff hu).not.2 hfull)]
      exact ih _ _ (hu.storeByte x) (huv.storeByte hu x)

/-! ## The search of TRY_READ -/

/-- Two passes that go the same way, with the same response where they respond. -/
inductive RotatedPass (d : Nat) : Pass → Pass → Prop
  | again {s t : State} (h : Rotated d s t) : RotatedPass d (.again s) (.again t)
  | done {s t : State} (r : Response) (h : Rotated d s t) : RotatedPass d (.done s r) (.done t r)

theorem RotatedPass.ite {p q : Prop} [Decidable p] [Decidable q] {x x' y y' : Pass} (hpq : p ↔ q)
    (hpos : p → RotatedPass d x x') (hneg : ¬ p → RotatedPass d y y') :
    RotatedPass d (if p then x else y) (if q then x' else y') := by
  by_cases hp : p
  · rw [if_pos hp, if_pos (hpq.1 hp)]
    exact hpos hp
  · rw [if_neg hp, if_neg (hpq.not.1 hp)]
    exact hneg hp

/-- A pass reads the candidate at the read cursor, which has the same bytes in both states. The position of its
checksum field is taken from a length of at least 12 (`43_frame_decoder.md` R157). -/
theorem Rotated.searchPass (h : Rotated d s t) (hs : s.RingInv) : RotatedPass d s.searchPass t.searchPass := by
  have hrcur : t.rcur % s.cfg.capacity = (s.rcur + d) % s.cfg.capacity := by rw [h.rcur_eq, Nat.mod_mod]
  have hat : ∀ a, (t.rcur + a) % s.cfg.capacity = (s.rcur + a + d) % s.cfg.capacity := fun a => by
    rw [h.rcur_eq, Nat.mod_add_mod, Nat.add_right_comm]
  have hpre : t.peekU32 t.rcur = s.peekU32 s.rcur := h.peekU32_eq hs hrcur
  have hid : t.peekU16 (t.rcur + 4) = s.peekU16 (s.rcur + 4) := h.peekU16_eq hs (hat 4)
  have hlen : t.peekU16 (t.rcur + 6) = s.peekU16 (s.rcur + 6) := h.peekU16_eq hs (hat 6)
  have hbody : t.candidateBody = s.candidateBody := by
    rw [State.candidateBody, State.candidateBody, State.peekBytes_mod, State.peekBytes_mod, hlen,
      h.peekBytes_eq hs (hat 8)]
  have hfield (hvalid : s.candidateValid) : t.candidateField = s.candidateField := by
    obtain ⟨-, -, hmin⟩ := hvalid
    have hfour : 4 ≤ (s.peekU16 (s.rcur + 6)).toNat := Nat.le_trans (by decide) hmin
    rw [State.candidateField, State.candidateField, hlen, h.cfg_eq, Nat.add_sub_assoc hfour,
      Nat.add_sub_assoc hfour]
    refine h.peekU32_eq hs ?_
    rw [Nat.mod_mod, Nat.mod_add_mod, hat]
  rw [State.searchPass_eq, State.searchPass_eq]
  refine .ite (by rw [h.unread_eq hs]) (fun _ => .done _ h) fun _ => ?_
  refine .ite (by rw [hpre, h.cfg_eq]) (fun _ => .again h.resync) fun _ => ?_
  refine .ite (by rw [State.candidateValid, State.candidateValid, hid, hlen, h.cfg_eq]) (fun _ => .again h.resync)
    fun hvalid => ?_
  rw [hid, hlen, hbody, hfield (not_not.1 hvalid)]
  refine .ite (by rw [h.unread_eq hs]) (fun _ => .done _ h) fun _ => ?_
  exact .ite .rfl (fun _ => .done _ (h.advanceRead _)) fun _ => .again ((h.advanceRead _).raise _)

/-- So the loop goes round the same number of times and responds alike. -/
theorem Rotated.searchLoop (h : Rotated d s t) (hs : s.RingInv) {n : Nat}
    (hloop : State.searchLoop n s = some (u, r)) : ∃ v, State.searchLoop n t = some (v, r) ∧ Rotated d u v := by
  induction n generalizing s t with
  | zero => cases hloop
  | succ n ih =>
    have hpass := h.searchPass hs
    simp only [State.searchLoop] at hloop ⊢
    generalize hx : s.searchPass = x at hpass hloop
    generalize t.searchPass = y at hpass
    cases hpass with
    | again h' =>
      obtain ⟨hring, -⟩ := hs.searchPass_again hx
      exact ih h' hring hloop
    | done r h' =>
      cases hloop
      exact ⟨_, rfl, h'⟩

/-! ## The operations -/

/-- Two runs that answer the same on rotated states and end in rotated states. -/
def RotatedRun (d : Nat) (s t : State) (i j : Instr) : Prop :=
  ∃ u v r, exec i s = .next (u.respond r) ∧ exec j t = .next (v.respond r) ∧ Rotated d u v ∧
    u.responses = s.responses ∧ v.responses = t.responses

theorem State.searchLoop_drain_responses {n : Nat} (hloop : State.searchLoop n s.drain = some (u, r)) :
    u.responses = s.responses := by
  rw [State.searchLoop_frame n hloop]
  exact s.drain_responses

theorem Rotated.exec_tryRead (h : Rotated d s t) (hs : s.RingInv) : RotatedRun d s t .tryRead .tryRead := by
  have hroom : s.drain.unread < s.cfg.capacity := by
    rw [hs.drain_unread]
    exact hs.unread_add_drainCount_lt
  obtain ⟨u, r, hloop⟩ := hs.drain.searchLoop_completes hroom
  obtain ⟨v, hloop', huv⟩ := (h.drain hs).searchLoop hs.drain hloop
  have hcap : s.cfg.capacity ≤ t.cfg.capacity := by rw [h.cfg_eq]
  have hu : u.responses = s.responses := State.searchLoop_drain_responses hloop
  have hv : v.responses = t.responses := State.searchLoop_drain_responses hloop'
  exact ⟨_, _, r, exec_tryRead_of_searchLoop (Nat.le_refl _) hloop, exec_tryRead_of_searchLoop hcap hloop',
    (huv.setFsm .idle).releaseLatch, hu, hv⟩

theorem Rotated.exec_push (h : Rotated d s t) (hs : s.RingInv) (x : Byte) :
    RotatedRun d s t (.push x) (.push x) := by
  by_cases hfull : s.full
  · have hfull' : t.full := (h.full_iff hs).2 hfull
    exact ⟨_, _, _, exec_push_of_full x hfull, exec_push_of_full x hfull', h.raise _, rfl, rfl⟩
  · have hroom : ¬ t.full := (h.full_iff hs).not.2 hfull
    exact ⟨_, _, _, exec_push_of_room x hfull, exec_push_of_room x hroom, h.storeByte hs x, rfl, rfl⟩

/-- The operand field holds every rotated position, since `C` is at most 65536 (`00_scope.md` R8). -/
theorem State.RingInv.toNat_rotate (hs : s.RingInv) (p : Nat) :
    (BitVec.ofNat 16 ((p + d) % s.cfg.capacity)).toNat = (p + d) % s.cfg.capacity := by
  obtain ⟨-, hcap, -⟩ := hs.cfg_wf
  rw [BitVec.toNat_ofNat, Nat.mod_eq_of_lt ((Nat.mod_lt _ hs.capacity_pos).trans_le hcap)]

theorem Rotated.posLegal (h : Rotated d s t) (hs : s.RingInv) (pos : Half) :
    t.posLegal (BitVec.ofNat 16 ((pos.toNat + d) % s.cfg.capacity)) := by
  rw [State.posLegal, hs.toNat_rotate, h.cfg_eq]
  exact Nat.mod_lt _ hs.capacity_pos

theorem State.exists_payload?_of_legal {id : Half} {din : List Byte} (hlegal : s.cfg.payloadLegal id din = true) :
    ∃ m, s.payload? id din = some m := by
  refine Option.ne_none_iff_exists'.1 fun hnone => ?_
  rw [State.payload?_eq_none_iff.1 hnone] at hlegal
  cases hlegal

theorem Rotated.payload?_eq (h : Rotated d s t) (id : Half) (din : List Byte) :
    t.payload? id din = s.payload? id din := by
  rw [State.payload?, State.payload?, h.cfg_eq]

/-- Each operation but RD_CURSORS, with legal operands and its position operand moved, runs alike. -/
theorem Rotated.exec_shiftPosition (h : Rotated d s t) (hs : s.RingInv) (hi : i.wellFormed s.cfg = true)
    (hne : i ≠ .rdCursors) : RotatedRun d s t i (shiftPosition s.cfg d i) := by
  cases i with
  | push x => exact h.exec_push hs x
  | avail pos =>
    have hpos : s.posLegal pos := of_decide_eq_true hi
    refine ⟨_, _, _, exec_avail_of_legal hpos, ?_, h, rfl, rfl⟩
    rw [shiftPosition, exec_avail_of_legal (h.posLegal hs pos), hs.toNat_rotate, h.availableFrom_eq hs.wcur_lt hpos]
  | peek32 pos =>
    refine ⟨_, _, _, exec_peek32_of_legal (of_decide_eq_true hi), ?_, h, rfl, rfl⟩
    rw [shiftPosition, exec_peek32_of_legal (h.posLegal hs pos), hs.toNat_rotate, h.peekU32_eq hs (Nat.mod_mod ..)]
  | peekb pos n =>
    rw [Instr.wellFormed, ← Bool.decide_and] at hi
    obtain ⟨hpos, hn⟩ := of_decide_eq_true hi
    have hn' : t.countLegal n := by rwa [State.countLegal, h.cfg_eq]
    refine ⟨_, _, _, exec_peekb_of_legal hpos hn, ?_, h, rfl, rfl⟩
    rw [shiftPosition, exec_peekb_of_legal (h.posLegal hs pos) hn', hs.toNat_rotate,
      h.peekBytes_eq hs (Nat.mod_mod ..)]
  | advance n => exact ⟨_, _, _, rfl, rfl, h.advanceRead n.toNat, rfl, rfl⟩
  | checksum len din =>
    have hlen : lengthLegal len din := eq_of_beq hi
    exact ⟨_, _, _, if_pos hlen, if_pos hlen, h, rfl, rfl⟩
  | encode id din =>
    obtain ⟨m, hm⟩ := State.exists_payload?_of_legal hi
    refine ⟨_, _, _, exec_encode_of_legal hm, ?_, h, rfl, rfl⟩
    rw [shiftPosition, exec_encode_of_legal ((h.payload?_eq id din).trans hm), h.cfg_eq]
  | send id din =>
    obtain ⟨m, hm⟩ := State.exists_payload?_of_legal hi
    refine ⟨_, _, _, exec_send_of_legal hm, ?_, h.transportWrite _, rfl, rfl⟩
    rw [shiftPosition, exec_send_of_legal ((h.payload?_eq id din).trans hm), h.cfg_eq]
  | tryRead => exact h.exec_tryRead hs
  | rdStatus =>
    refine ⟨_, _, _, rfl, ?_, h, rfl, rfl⟩
    rw [State.statusWord, ← h.status_eq]
    rfl
  | clrStatus mask => exact ⟨_, _, _, rfl, rfl, h.clearFlags mask, rfl, rfl⟩
  | rdCursors => exact absurd rfl hne

/-- Settles O57: RD_CURSORS answers in its own way and changes nothing else, and every other operation runs alike on
the rotated state. -/
theorem positionIndependence : Obligations.PositionIndependence := by
  intro d i s t s' hs ht h hi hrun
  by_cases hcursors : i = .rdCursors
  · subst hcursors
    obtain rfl := execRdCursors_cases hrun
    exact ⟨_, rfl, h.respond .., fun hne => absurd rfl hne⟩
  · obtain ⟨u, v, r, hu, hv, huv, hresu, hresv⟩ := h.exec_shiftPosition hs.ringInv hi hcursors
    rw [hu] at hrun
    cases hrun
    refine ⟨_, hv, huv.respond .., fun _ => ⟨r, ?_, ?_⟩⟩
    · rw [State.respond_responses, hresu]
    · rw [State.respond_responses, hresv]

end Sys2Proof.Machine
end

section
/-! PROOFS. The Checksum Engine (`41_checksum.md` R131 to R134): one shift on numbers, the step and the CRC as
injective functions of register and byte, the bytes of the checksum, and the CHECKSUM command. -/

namespace Sys2Proof

/-! ## Facts about bit vectors -/

section
variable {n : Nat} {x y : BitVec n}

theorem getLsbD_zero_iff_toNat_mod_two : x.getLsbD 0 = true ↔ x.toNat % 2 = 1 := by
  rw [← BitVec.testBit_toNat, Nat.testBit_zero, decide_eq_true_iff]

theorem ushiftRight_one_eq_ofNat : x >>> 1 = BitVec.ofNat n (x.toNat / 2) := by
  refine BitVec.eq_of_toNat_eq ?_
  have hlt : x.toNat / 2 < 2 ^ n := (Nat.div_le_self ..).trans_lt x.isLt
  rw [BitVec.toNat_ushiftRight, Nat.shiftRight_one, BitVec.toNat_ofNat, Nat.mod_eq_of_lt hlt]

/-- A word is its lowest bit and the word shifted right by it. -/
theorem eq_of_getLsbD_zero_of_ushiftRight_one (hbit : x.getLsbD 0 = y.getLsbD 0) (hshift : x >>> 1 = y >>> 1) :
    x = y := by
  refine BitVec.eq_of_getLsbD_eq fun i _ => ?_
  cases i with
  | zero => exact hbit
  | succ i =>
    have hi : (x >>> 1).getLsbD i = (y >>> 1).getLsbD i := by rw [hshift]
    rwa [BitVec.getLsbD_ushiftRight, BitVec.getLsbD_ushiftRight, Nat.add_comm] at hi

/-- A zero extension holds nothing above the word extended. -/
theorem extractLsb'_setWidth_of_ge {start len m : Nat} (h : n ≤ start) :
    (x.setWidth m).extractLsb' start len = 0#len := by
  refine BitVec.eq_of_getLsbD_eq fun i _ => ?_
  have hbit : x.getLsbD (start + i) = false := BitVec.getLsbD_of_ge x _ (Nat.le_add_right_of_le h)
  rw [BitVec.getLsbD_extractLsb', BitVec.getLsbD_setWidth, hbit, Bool.and_false, Bool.and_false, BitVec.getLsbD_zero]

end

theorem accepts_checksum_iff {a b : Half} {din : List Byte} : Op.checksum.Accepts a b din ↔ a = 0#16 := by
  have ha : a &&& Op.checksum.zeroA = a := BitVec.and_allOnes
  have hb : b &&& Op.checksum.zeroB = 0#16 := BitVec.and_zero
  have hdin : Op.checksum.takesDin = false → din = [] := fun htakes => nomatch htakes
  rw [Op.accepts_iff, ha, and_iff_left ⟨hb, hdin⟩]

namespace Machine

/-! ## One step of the register -/

/-- One shift of R131 on the register as a number: halved, its parity being the bit shifted out. -/
theorem crcShift_eq_ofNat (reg : Half) : crcShift reg =
    if reg.toNat % 2 = 1 then BitVec.ofNat 16 (reg.toNat / 2) ^^^ crcPoly else BitVec.ofNat 16 (reg.toNat / 2) := by
  simp only [crcShift, getLsbD_zero_iff_toNat_mod_two, ushiftRight_one_eq_ofNat]

theorem crcShifts_eq_iterate (n : Nat) : crcShifts n = crcShift^[n] := by
  induction n with
  | zero => rfl
  | succ n ih => rw [Function.iterate_succ, ← ih]; rfl

/-- Settles O16: the eight shifts are a fold of one shift, and one shift is R131's on numbers. -/
theorem crcStepShiftsRightWithPolynomial : Obligations.CrcStepShiftsRightWithPolynomial := by
  refine ⟨fun reg v => ?_, by decide⟩
  calc crc16Step reg v
      = crcShift^[8] (reg ^^^ BitVec.ofNat 16 v.toNat) := by
        rw [crc16Step, crcShifts_eq_iterate, BitVec.ofNat_toNat]
    _ = (List.range 8).foldl (fun r _ => crcShift r) (reg ^^^ BitVec.ofNat 16 v.toNat) := by
        rw [List.foldl_const, List.length_range]
    _ = _ := by simp only [crcShift_eq_ofNat]; rfl

/-- The polynomial has its top bit set (`00_scope.md` R6), so the bit shifted out comes back at the top. -/
theorem crcShift_msb (reg : Half) : (crcShift reg).msb = reg.getLsbD 0 := by
  have hshift : (reg >>> 1).msb = false := BitVec.msb_ushiftRight
  have hpoly : crcPoly.msb = true := by decide
  rw [crcShift]
  split
  next hbit => rw [BitVec.msb_xor, hshift, hpoly, hbit, Bool.false_xor]
  next hbit => rw [hshift, eq_false_of_ne_true hbit]

theorem crcShift_injective : Function.Injective crcShift := by
  intro x y h
  have hbit : x.getLsbD 0 = y.getLsbD 0 := by rw [← crcShift_msb, h, crcShift_msb]
  refine eq_of_getLsbD_zero_of_ushiftRight_one hbit ?_
  rw [crcShift, crcShift, hbit] at h
  split at h
  · exact (BitVec.xor_left_inj _).1 h
  · exact h

theorem crcShifts_injective (n : Nat) : Function.Injective (crcShifts n) := by
  rw [crcShifts_eq_iterate]
  exact crcShift_injective.iterate n

theorem crc16Step_reg_injective (v : Byte) : Function.Injective (crc16Step · v) :=
  fun _ _ h => (BitVec.xor_left_inj _).1 (crcShifts_injective 8 h)

theorem crc16Step_byte_injective (reg : Half) : Function.Injective (crc16Step reg) := by
  intro v w h
  have hwidth : v.setWidth 16 = w.setWidth 16 := (BitVec.xor_right_inj _).1 (crcShifts_injective 8 h)
  rw [← extractLsb'_setWidth_of_le v (by decide : 8 ≤ 16), hwidth, extractLsb'_setWidth_of_le w (by decide)]

/-! ## The CRC of a byte sequence -/

theorem foldl_crc16Step_injective (s : List Byte) : Function.Injective (s.foldl crc16Step) := by
  induction s with
  | nil => exact Function.injective_id
  | cons v s ih => exact ih.comp (crc16Step_reg_injective v)

/-- Of two sequences that may differ in one byte, the CRC tells whether they do. -/
theorem crc16_append_cons_inj (s t : List Byte) {v w : Byte} :
    crc16 (s ++ v :: t) = crc16 (s ++ w :: t) ↔ v = w := by
  refine ⟨fun h => ?_, fun h => by rw [h]⟩
  rw [crc16, crc16, List.foldl_append, List.foldl_append] at h
  exact crc16Step_byte_injective _ (foldl_crc16Step_injective t h)

theorem crc16_modify_eq_iff {s : List Byte} {i : Nat} (f : Byte → Byte) (hi : i < s.length) :
    crc16 (s.modify i f) = crc16 s ↔ f s[i] = s[i] := by
  have hs : s = s.take i ++ s[i] :: s.drop (i + 1) := by rw [List.cons_getElem_drop_succ, List.take_append_drop]
  calc crc16 (s.modify i f) = crc16 s
      ↔ crc16 (s.take i ++ f s[i] :: s.drop (i + 1)) = crc16 (s.take i ++ s[i] :: s.drop (i + 1)) := by
        rw [List.modify_eq_take_cons_drop hi, ← hs]
    _ ↔ f s[i] = s[i] := crc16_append_cons_inj ..

theorem xor_one_shiftLeft_ne (v : Byte) {k : Nat} (hk : k < 8) : v ^^^ (1#8 <<< k) ≠ v := by
  have hbit : ∀ k < 8, 1#8 <<< k ≠ 0#8 := by decide
  refine fun h => hbit k hk ((BitVec.xor_right_inj v).1 ?_)
  rw [h, BitVec.xor_zero]

/-- Settles O19: the bit changes the one byte it is in, and so the CRC. -/
theorem singleBitChangeAlwaysChangesTheCrc : Obligations.SingleBitChangeAlwaysChangesTheCrc :=
  fun _ _ _ hi hk => (crc16_modify_eq_iff _ hi).not.2 (xor_one_shiftLeft_ne _ hk)

/-! ## The checksum and its command -/

theorem checksum_toNat (s : List Byte) : (checksum s).toNat = (crc16 s).toNat :=
  BitVec.toNat_setWidth_of_le (by decide)

/-- The wire bytes of R133. -/
theorem leBytes_checksum (s : List Byte) :
    leBytes 4 (checksum s) = [(crc16 s).extractLsb' 0 8, (crc16 s).extractLsb' 8 8, 0#8, 0#8] := by
  have hbyte (i : Nat) (hi : i + 8 ≤ 32) : (checksum s).extractLsb' i 8 = (crc16 s).extractLsb' i 8 :=
    BitVec.extractLsb'_setWidth_of_le hi
  have hzero (i : Nat) (hi : 16 ≤ i) : (checksum s).extractLsb' i 8 = 0#8 := extractLsb'_setWidth_of_ge hi
  calc leBytes 4 (checksum s)
      = [(checksum s).extractLsb' 0 8, (checksum s).extractLsb' 8 8, (checksum s).extractLsb' 16 8,
          (checksum s).extractLsb' 24 8] := rfl
    _ = _ := by rw [hbyte 0 (by decide), hbyte 8 (by decide), hzero 16 (by decide), hzero 24 (by decide)]

/-- Settles O17: the CRC is a left fold, so the last byte comes last, and the checksum is its zero extension. -/
theorem checksumIsTheZeroExtendedCrc : Obligations.ChecksumIsTheZeroExtendedCrc :=
  ⟨rfl, fun s v => List.foldl_concat crc16Step crcInit v s, fun s => ⟨checksum_toNat s, leBytes_checksum s⟩⟩

theorem exec_checksum_of_legal {s : State} {len : Half} {din : List Byte} (hlen : lengthLegal len din) :
    exec (.checksum len din) s = .next (s.respond (Response.value (checksum din))) := if_pos hlen

/-- Settles O18: the row of CHECKSUM asks only that `a` be 0, and its one operand rule is that of the length. -/
theorem checksumCommandReturnsTheChecksum : Obligations.ChecksumCommandReturnsTheChecksum := by
  refine ⟨fun _ _ _ => Op.checksum.commandWord_answered accepts_checksum_iff, fun len din s => ⟨?illegal, ?legal⟩⟩
  case illegal => exact fun hlen => exec_of_wellFormed_eq_false (beq_eq_false_iff_ne.2 hlen)
  case legal => exact exec_checksum_of_legal

end Machine
end Sys2Proof
end

section
/-! PROOFS. The Frame Encoder (`42_frame_encoder.md` R141 to R144): the fields of a frame as numbers, ENCODE and SEND
with their operand rule, and the round trip through TRY_READ. -/

namespace Sys2Proof

/-- ENCODE and SEND leave `a` and `din` free and ask that `b` be 0. -/
theorem Op.accepts_iff_of_payload {o : Op} (ha : o.zeroA = 0#16) (hb : o.zeroB = BitVec.allOnes 16)
    (hdin : o.takesDin = true) {a b : Half} {din : List Byte} : o.Accepts a b din ↔ b = 0#16 := by
  have hfree : o.takesDin = false → din = [] := fun hnone => absurd (hdin.symm.trans hnone) (by decide)
  rw [Op.accepts_iff, ha, hb, BitVec.and_zero, BitVec.and_allOnes, and_iff_right rfl, and_iff_left hfree]

/-- Every frame of the catalog fits the ring (`00_scope.md` R8 item 3). -/
theorem Config.payloadSize_fits {c : Config} (hwf : c.wf) (m : MessageId) : 12 + c.payloadSize m < c.capacity := by
  obtain ⟨-, -, -, haero, -, hcontrol⟩ := hwf
  cases m with
  | aeroData => exact haero
  | controlParams => exact hcontrol

namespace Machine

/-! ## The fields of a frame -/

/-- Enough bytes for the whole word give back its number (`20_memory.md` R52). -/
theorem uLe_leBytes_of_le {w n : Nat} (v : BitVec w) (hw : w ≤ 8 * n) : uLe (leBytes n v) = v.toNat := by
  rw [uLe_leBytes, Nat.mod_eq_of_lt (v.isLt.trans_le (Nat.pow_le_pow_right Nat.two_pos hw))]

/-- The checksum field is the last of the frame (`42_frame_encoder.md` R141). -/
theorem frame_drop_payload (c : Config) (id : Half) (payload rest : List Byte) :
    (frame c id payload ++ rest).drop (8 + payload.length) = leBytes 4 (checksum payload) ++ rest := by
  rw [← List.drop_drop, frame_drop_header, List.drop_left' rfl]

/-- Settles O20: each field is read back from the bytes it was written as; the bound keeps the total length
within its 16 bits. -/
theorem frameHasTheFieldsOfTheWireFormat : Obligations.FrameHasTheFieldsOfTheWireFormat := by
  intro c id payload hbound
  refine ⟨frame_length .., ?_⟩
  rw [← List.append_nil (frame c id payload)]
  refine ⟨?preamble, ?id, ?length, ?payload, ?checksum⟩
  case preamble => rw [frame_take_preamble, uLe_leBytes_of_le _ (by decide)]
  case id => rw [frame_take_id, uLe_leBytes_of_le _ (by decide)]
  case length =>
    rw [frame_take_length, uLe_leBytes_of_le _ (by decide), BitVec.toNat_ofNat, Nat.mod_eq_of_lt (by omega)]
  case payload => rw [frame_drop_header, List.take_left' rfl]
  case checksum =>
    rw [frame_drop_payload, List.append_nil, uLe_leBytes_of_le _ (by decide), checksum_toNat]

/-! ## ENCODE and SEND -/

section
variable {s : State} {id : Half} {din : List Byte} {m : MessageId}

/-- The legal operands of ENCODE and SEND, one alternative for each row of the catalog (`30_encoding.md` R88). -/
theorem State.exists_payload?_iff : (∃ m, s.payload? id din = some m) ↔
    (id = 0#16 ∧ din.length = s.cfg.aeroSize) ∨ (id = 1#16 ∧ din.length = s.cfg.controlSize) := by
  constructor
  · rintro ⟨m, hm⟩
    obtain ⟨hid, hsize⟩ := State.payload?_eq_some.1 hm
    cases m with
    | aeroData => exact .inl ⟨hid, hsize⟩
    | controlParams => exact .inr ⟨hid, hsize⟩
  · rintro (⟨hid, hsize⟩ | ⟨hid, hsize⟩)
    · exact ⟨.aeroData, State.payload?_eq_some.2 ⟨hid, hsize⟩⟩
    · exact ⟨.controlParams, State.payload?_eq_some.2 ⟨hid, hsize⟩⟩

theorem State.payload?_eq_none (hillegal : ¬ ((id = 0#16 ∧ din.length = s.cfg.aeroSize) ∨
    (id = 1#16 ∧ din.length = s.cfg.controlSize))) : s.payload? id din = none :=
  Option.eq_none_iff_forall_ne_some.2 fun m hm => hillegal (State.exists_payload?_iff.1 ⟨m, hm⟩)

/-- `val` of the answer is the length of the frame of this payload. -/
theorem frameResponse_eq (hm : s.payload? id din = some m) (f : List Byte) :
    frameResponse s.cfg m f = ⟨.ok, 0#16, BitVec.ofNat 32 (12 + din.length), f⟩ := by
  obtain ⟨-, hsize⟩ := State.payload?_eq_some.1 hm
  rw [frameResponse, hsize]

end

/-- Settles O21: the operands are legal for a catalog entry, or for none. -/
theorem encodeReturnsTheFrame : Obligations.EncodeReturnsTheFrame := by
  refine ⟨fun _ _ _ => Op.encode.commandWord_answered (Op.accepts_iff_of_payload rfl rfl rfl),
    fun id din s => ⟨fun hillegal => exec_encode_of_illegal (State.payload?_eq_none hillegal), fun hlegal => ?_⟩⟩
  obtain ⟨m, hm⟩ := State.exists_payload?_iff.2 hlegal
  rw [exec_encode_of_legal hm, frameResponse_eq hm]
  rfl

/-- Settles O22: as for ENCODE, the frame being written once. -/
theorem sendWritesTheFrameOnce : Obligations.SendWritesTheFrameOnce := by
  refine ⟨fun _ _ _ => Op.send.commandWord_answered (Op.accepts_iff_of_payload rfl rfl rfl),
    fun id din s => ⟨fun hillegal => exec_send_of_illegal (State.payload?_eq_none hillegal), fun hlegal => ?_⟩⟩
  obtain ⟨m, hm⟩ := State.exists_payload?_iff.2 hlegal
  rw [exec_send_of_legal hm, frameResponse_eq hm]
  rfl

/-! ## The round trip -/

/-- Settles O39: ENCODE answers the frame that SEND would write, and that frame is delivered at a peer of the same
configuration. -/
theorem roundTripThroughEncodeAndTryRead : Obligations.RoundTripThroughEncodeAndTryRead := by
  intro s e m payload hinv hempty hrxq hsize hcfg
  have hsize' : payload.length = e.cfg.payloadSize m := by rwa [hcfg]
  have hfits : 12 + payload.length < s.cfg.capacity := hsize ▸ Config.payloadSize_fits hinv.cfg_wf m
  have hm : e.payload? m.number payload = some m := State.payload?_eq_some.2 ⟨rfl, hsize'⟩
  obtain ⟨f, e', t, hsend, htxlog, hread, hresponses, hunread, -⟩ := sentFrameIsDeliveredAtThePeer e s m payload hinv
    (hcfg ▸ hinv.cfg_wf) (congrArg Config.preamble hcfg) hsize' hfits hempty hrxq
  rw [exec_send_of_legal hm] at hsend
  cases hsend
  obtain rfl : frame e.cfg m.number payload = f := List.singleton_inj.1 (List.append_cancel_left htxlog)
  refine ⟨_, _, t, exec_encode_of_legal hm, ?_, hread, ?_, hunread⟩
  · rw [State.respond_responses, frameResponse_eq hm]
  · rw [hresponses, hsize]

end Machine
end Sys2Proof
end

section
/-! PROOFS. The drain of TRY_READ as one equation, and the command that is TRY_READ
(`43_frame_decoder.md` R150, R151; `30_encoding.md` R95). -/

namespace Sys2Proof

theorem accepts_tryRead_iff {a b : Half} {din : List Byte} :
    Op.tryRead.Accepts a b din ↔ a = 0#16 ∧ b = 0#16 ∧ din = [] := by
  have ha : a &&& Op.tryRead.zeroA = a := BitVec.and_allOnes
  have hb : b &&& Op.tryRead.zeroB = b := BitVec.and_allOnes
  rw [Op.accepts_iff_of_no_din rfl, ha, hb]

namespace Machine

variable {s : State}

theorem State.RingInv.drain_eq (h : s.RingInv) : s.drain = { s with
    buf := s.drain.buf, wcur := (s.wcur + s.drainCount) % s.cfg.capacity, rxq := s.rxq.drop s.drainCount,
    status := if s.cfg.capacity - 1 - s.unread < s.rxq.length then s.status ||| 0b001#3 else s.status } := by
  obtain ⟨hwcur, hrxq, hstatus, -⟩ := State.drainFrom_spec s.rxq h.two_le_capacity h.wcur_lt h.rcur_lt rfl
  calc s.drain = { s with
        buf := s.drain.buf, wcur := s.drain.wcur, rxq := s.drain.rxq, status := s.drain.status } :=
      State.drainFrom_frame s.rxq s
    _ = _ := by rw [State.drain, hwcur, hrxq, hstatus]; rfl

/-- Settles O27: the bound `k` is the drain's count, and the drained bytes are in their places. -/
theorem drainMovesTheOldestBytesThatFit : Obligations.DrainMovesTheOldestBytesThatFit := by
  rintro s _ hinv rfl
  have hring := hinv.ringInv
  exact ⟨hring.drain_eq, hring.drain_unread, fun _ => hring.drain_readByte_moved,
    fun _ => hring.drain_readByte_other⟩

theorem State.drain_of_rxq_nil (hrxq : s.rxq = []) : s.drain = s := by
  obtain ⟨⟩ := s
  cases hrxq
  rfl

theorem State.Inv.setFsm_idle (h : s.Inv) : s.setFsm .idle = s := by
  rw [State.setFsm, ← h.fsm_idle]

end Machine
end Sys2Proof
end

section
/-! PROOFS. TRY_READ and the loop of `43_frame_decoder.md` R163: how the loop ends, that the one runs as the other,
and each kind of pass as the whole operation shows it (R152 to R162). -/

namespace Sys2Proof.Machine

variable {s t : State} {r : Response}

/-! ## The loop -/

/-- R164: the pass that finds at most 8 bytes unread responds, and every pass before it gives up a byte. -/
theorem State.RingInv.searchLoop_completes_within (h : s.RingInv) {n : Nat} (hn : s.unread - 8 < n) :
    ∃ t r, State.searchLoop n s = some (t, r) := by
  induction n generalizing s with
  | zero => exact absurd hn (Nat.not_lt_zero _)
  | succ n ih =>
    simp only [State.searchLoop]
    cases hpass : s.searchPass with
    | done t r => exact ⟨t, r, rfl⟩
    | again t =>
      obtain ⟨hring, hless⟩ := h.searchPass_again hpass
      have hmore : 8 < s.unread := by
        by_contra hfew
        rw [State.searchPass_eq, if_pos (Nat.not_lt.1 hfew)] at hpass
        cases hpass
      exact ih hring (by omega)

/-- Where the loop responds, its last pass does. -/
theorem State.searchLoop_last {n : Nat} (hloop : State.searchLoop n s = some (t, r)) :
    ∃ u : State, u.searchPass = .done t r := by
  induction n generalizing s with
  | zero => cases hloop
  | succ n ih =>
    simp only [State.searchLoop] at hloop
    cases hpass : s.searchPass with
    | done t r => rw [hpass] at hloop; cases hloop; exact ⟨s, hpass⟩
    | again u => rw [hpass] at hloop; exact ih hloop

/-- A response of the search is OK, or it is NO_FRAME with at most 8 bytes unread or at a valid header whose frame is
incomplete. -/
theorem State.searchLoop_response {n : Nat} (hloop : State.searchLoop n s = some (t, r)) :
    r.code = .ok ∨ r = Response.bare .noFrame ∧
      (t.unread ≤ 8 ∨ (t.peekU32 t.rcur = t.cfg.preamble ∧ t.candidateValid ∧
        t.unread < (t.peekU16 (t.rcur + 6)).toNat)) := by
  obtain ⟨u, hdone⟩ := State.searchLoop_last hloop
  obtain ⟨hpass, hstay⟩ | ⟨hpass, -⟩ | ⟨-, -, -, -, ⟨hpass, -⟩ | ⟨hpass, -⟩⟩ := u.searchPass_cases
  · cases hpass.symm.trans hdone; exact .inr ⟨rfl, hstay⟩
  · cases hpass.symm.trans hdone
  · cases hpass.symm.trans hdone; exact .inl rfl
  · cases hpass.symm.trans hdone

theorem State.RingInv.drain_searchLoop (h : s.RingInv) :
    ∃ t r, State.searchLoop (s.cfg.capacity - 8) s.drain = some (t, r) := by
  obtain ⟨hmin, -⟩ := h.cfg_wf
  have hunread := h.drain_unread
  have hroom := h.unread_add_drainCount_lt
  exact h.drain.searchLoop_completes_within (by omega)

/-! ## TRY_READ runs as the loop -/

theorem exec_tryRead_eq_of_searchLoop (h : s.Inv) {n : Nat} (hn : n ≤ s.cfg.capacity)
    (hloop : State.searchLoop n s.drain = some (t, r)) : exec .tryRead s = .next (t.releaseLatch.respond r) := by
  have hidle : t.setFsm .idle = t := by
    rw [State.searchLoop_frame n hloop, State.setFsm, ← h.fsm_idle, ← s.drain_fsm]
  rw [exec_tryRead_of_searchLoop hn hloop, hidle]

/-- The loop whose result a completed TRY_READ shows. -/
theorem searchLoop_of_exec_tryRead (h : s.Inv) (hrun : exec .tryRead s = .next t) :
    ∃ u r, State.searchLoop (s.cfg.capacity - 8) s.drain = some (u, r) ∧ t = u.releaseLatch.respond r ∧
      t.responses = s.responses ++ [r] := by
  obtain ⟨u, r, hloop⟩ := h.ringInv.drain_searchLoop
  rw [exec_tryRead_eq_of_searchLoop h (Nat.sub_le ..) hloop] at hrun
  cases hrun
  refine ⟨u, r, hloop, rfl, ?_⟩
  rw [State.respond_responses, State.releaseLatch_responses, State.searchLoop_drain_responses hloop]

/-- Settles O33: the loop ends by its measure, and the state machine runs it. -/
theorem stateMachineAgreesWithTheOneFunction : Obligations.StateMachineAgreesWithTheOneFunction := by
  intro s hinv
  obtain ⟨t, r, hloop⟩ := hinv.ringInv.drain_searchLoop
  exact ⟨t, r, hloop, exec_tryRead_eq_of_searchLoop hinv (Nat.sub_le ..) hloop⟩

/-- Settles O34: what a pass gives up is one byte or a whole frame, and the unread count falls by it. -/
theorem everyPassLowersTheUnreadCount : Obligations.EveryPassLowersTheUnreadCount := by
  intro s t hinv hpass
  obtain ⟨n, e, hn, hle, rfl⟩ := State.searchPass_again hpass
  have hcount : ((s.advanceRead n).raise e).unread + n = s.unread :=
    State.unread_advanceRead hinv.wcur_lt hinv.rcur_lt hle
  obtain rfl | hframe := hn
  · exact .inl hcount
  · exact .inr ⟨n, hframe, hcount⟩

/-- Settles O26: the row of TRY_READ asks that all of the command be 0, and the loop ends with one of the two
responses. -/
theorem tryReadAlwaysCompletes : Obligations.TryReadAlwaysCompletes := by
  refine ⟨fun _ _ _ => Op.tryRead.commandWord_answered accepts_tryRead_iff, fun s hinv => ?_⟩
  obtain ⟨t, hrun⟩ := hinv.ringInv.exec_completes .tryRead
  obtain ⟨u, r, hloop, -, hresponses⟩ := searchLoop_of_exec_tryRead hinv hrun
  exact ⟨t, r, hrun, hresponses, (State.searchLoop_response hloop).imp_right And.left, (hinv.exec hrun).fsm_idle⟩

/-- Settles O37: what the last pass found stands as it was, the release of the latch and the response aside. -/
theorem noFrameOnlyWhenNothingIsDecodable : Obligations.NoFrameOnlyWhenNothingIsDecodable := by
  intro s t hinv hrun hnone
  obtain ⟨u, r, hloop, rfl, hresponses⟩ := searchLoop_of_exec_tryRead hinv hrun
  obtain rfl : r = ⟨.noFrame, 0#16, 0#32, []⟩ :=
    List.singleton_inj.1 (List.append_cancel_left (hresponses.symm.trans hnone))
  obtain hok | ⟨-, hfew | ⟨hpre, ⟨hid, hlt, hmin⟩, hwait⟩⟩ := State.searchLoop_response hloop
  · cases hok
  · exact .inl hfew
  · exact .inr ⟨hpre, hid, hmin, hlt, hwait⟩

/-! ## One pass, with nothing at the transport -/

theorem exec_tryRead_of_searchPass_done (h : s.Inv) (hrxq : s.rxq = []) (hpass : s.searchPass = .done t r) :
    exec .tryRead s = .next (t.releaseLatch.respond r) := by
  rw [← State.drain_of_rxq_nil hrxq] at hpass
  exact exec_tryRead_eq_of_searchLoop h h.ringInv.capacity_pos (State.searchLoop_of_done hpass)

/-- A pass that goes round again leaves the rest of the operation to the state it leaves. -/
theorem exec_tryRead_of_searchPass_again (h : s.Inv) (hrxq : s.rxq = [])
    (hpass : s.searchPass = .again t) : exec .tryRead s = exec .tryRead t := by
  have hframe : t = { s with rcur := t.rcur, status := t.status } := s.searchPass_frame.1 t hpass
  have hcfg : t.cfg = s.cfg := by rw [hframe]
  have hrxq' : t.rxq = [] := by rw [hframe]; exact hrxq
  obtain ⟨hring, -⟩ := h.ringInv.searchPass_again hpass
  obtain ⟨hmin, -⟩ := h.cfg_wf
  obtain ⟨u, r, hloop⟩ := hring.drain_searchLoop
  have hloop' : State.searchLoop (s.cfg.capacity - 8 + 1) s.drain = some (u, r) := by
    rw [State.drain_of_rxq_nil hrxq, State.searchLoop, hpass, ← hcfg]
    rwa [State.drain_of_rxq_nil hrxq'] at hloop
  rw [exec_tryRead_of_searchLoop (by omega) hloop', exec_tryRead_of_searchLoop (Nat.sub_le ..) hloop]

theorem State.searchPass_of_bad (hmore : 8 < s.unread)
    (hbad : s.peekU32 s.rcur ≠ s.cfg.preamble ∨ ¬ s.candidateValid) : s.searchPass = .again s.resync := by
  rw [State.searchPass_eq, if_neg (Nat.not_le.2 hmore)]
  split
  · rfl
  next hpre => rw [if_pos (hbad.resolve_left hpre)]

theorem State.searchPass_of_stay (hstay : s.unread ≤ 8 ∨ (s.peekU32 s.rcur = s.cfg.preamble ∧ s.candidateValid ∧
    s.unread < (s.peekU16 (s.rcur + 6)).toNat)) : s.searchPass = .done s (Response.bare .noFrame) := by
  rw [State.searchPass_eq]
  split
  · rfl
  next hmore =>
    obtain ⟨hpre, hvalid, hwait⟩ := hstay.resolve_left hmore
    rw [if_neg (not_not.2 hpre), if_neg (not_not.2 hvalid), if_pos hwait]

/-- A candidate that is all there is judged by its checksum. -/
theorem State.searchPass_of_whole (hpre : s.peekU32 s.rcur = s.cfg.preamble) (hvalid : s.candidateValid)
    (hall : (s.peekU16 (s.rcur + 6)).toNat ≤ s.unread) : s.searchPass =
      if checksum s.candidateBody = s.candidateField then
        .done (s.advanceRead (s.peekU16 (s.rcur + 6)).toNat) (frameDecoded (s.peekU16 (s.rcur + 4)) s.candidateBody)
      else .again ((s.advanceRead (s.peekU16 (s.rcur + 6)).toNat).raise .checksumMismatch) := by
  have hmore : ¬ s.unread ≤ 8 := by
    obtain ⟨-, -, hmin⟩ : _ ∧ _ ∧ 12 ≤ (s.peekU16 (s.rcur + 6)).toNat := hvalid
    omega
  rw [State.searchPass_eq, if_neg hmore, if_neg (not_not.2 hpre), if_neg (not_not.2 hvalid), if_neg (Nat.not_lt.2 hall)]

/-- An unread frame is below the capacity, so its header needs no third check. -/
theorem State.RingInv.candidateValid_of_unread (h : s.RingInv) (hid : (s.peekU16 (s.rcur + 4)).toNat < 2)
    (hmin : 12 ≤ (s.peekU16 (s.rcur + 6)).toNat) (hall : (s.peekU16 (s.rcur + 6)).toNat ≤ s.unread) :
    s.candidateValid :=
  ⟨hid, hall.trans_lt (State.availableFrom_lt h.wcur_lt h.rcur_lt), hmin⟩

theorem State.candidateBody_eq (s : State) :
    s.candidateBody = s.peekBytes (s.rcur + 8) ((s.peekU16 (s.rcur + 6)).toNat - 12) := s.peekBytes_mod ..

theorem State.peekU32_mod (s : State) (p : Nat) : s.peekU32 (p % s.cfg.capacity) = s.peekU32 p := by
  rw [State.peekU32, State.peekU32, State.memRead, State.memRead, State.peekBytes_mod]

theorem State.candidateField_eq (s : State) :
    s.candidateField = s.peekU32 (s.rcur + (s.peekU16 (s.rcur + 6)).toNat - 4) := s.peekU32_mod _

/-- Settles O29: a pass over such a candidate goes round again one byte further. -/
theorem resynchronisationCostsOneByte : Obligations.ResynchronisationCostsOneByte := by
  intro s hinv hrxq hmore hbad
  refine exec_tryRead_of_searchPass_again hinv hrxq (State.searchPass_of_bad hmore (hbad.imp_right ?_))
  rintro (hid | hlong | hshort) ⟨hid', hlong', hshort'⟩
  · exact absurd hid' (Nat.not_lt.2 hid)
  · exact absurd hlong' (Nat.not_lt.2 hlong)
  · exact absurd hshort' (Nat.not_le.2 hshort)

/-- Settles O30: the first pass responds and writes nothing. -/
theorem incompleteFrameIsLeftInPlace : Obligations.IncompleteFrameIsLeftInPlace := by
  intro s hinv hrxq hstay
  have hpass := State.searchPass_of_stay
    (hstay.imp_right fun ⟨hpre, hid, hmin, hlt, hwait⟩ => ⟨hpre, ⟨hid, hlt, hmin⟩, hwait⟩)
  exact ⟨_, exec_tryRead_of_searchPass_done hinv hrxq hpass, rfl⟩

/-- Settles O31: the first pass finds the checksums equal, and responds with the whole frame consumed. -/
theorem goodFrameIsConsumedAndDelivered : Obligations.GoodFrameIsConsumedAndDelivered := by
  rintro s _ _ hinv hrxq hpre hid rfl hmin hall rfl hsum
  have hgood : checksum s.candidateBody = s.candidateField := by
    rw [s.candidateField_eq, hsum, s.candidateBody_eq, checksum]
  have hpass := State.searchPass_of_whole hpre (hinv.ringInv.candidateValid_of_unread hid hmin hall) hall
  rw [if_pos hgood, s.candidateBody_eq] at hpass
  refine ⟨_, exec_tryRead_of_searchPass_done hinv hrxq hpass, ?_⟩
  rw [frameDecoded, State.peekBytes_length]
  rfl

/-- Settles O32: the first pass finds the checksums different, and goes round again behind the frame. -/
theorem rejectedFrameCostsTheWholeFrame : Obligations.RejectedFrameCostsTheWholeFrame := by
  rintro s _ hinv hrxq hpre hid rfl hmin hall hsum
  have hbad : checksum s.candidateBody ≠ s.candidateField := by
    rw [s.candidateField_eq, s.candidateBody_eq]
    exact hsum.symm
  have hpass := State.searchPass_of_whole hpre (hinv.ringInv.candidateValid_of_unread hid hmin hall) hall
  rw [if_neg hbad] at hpass
  exact exec_tryRead_of_searchPass_again hinv hrxq hpass

end Sys2Proof.Machine
end

section
/-! PROOFS. The search over a byte stream (`43_frame_decoder.md` R152 to R162) as a relation, and TRY_READ as that
search over the unread and the drained bytes (R163, R167). -/

namespace Sys2Proof.Machine

variable {c : Config} {u : List Byte} {R : StreamResult} {s t : State} {r : Response} {n : Nat}

/-! ## The candidate at the front of a stream -/

/-- The `message_id` of the candidate (R154). -/
abbrev streamId (u : List Byte) : Nat := uLe ((u.drop 4).take 2)

/-- The `total_length` of the candidate (R154). -/
abbrev streamLength (u : List Byte) : Nat := uLe ((u.drop 6).take 2)

/-- The body of the candidate (R159). -/
abbrev streamBody (u : List Byte) : List Byte := (u.drop 8).take (streamLength u - 12)

/-- The checksum field of the candidate (R159). -/
abbrev streamField (u : List Byte) : List Byte := (u.drop (streamLength u - 4)).take 4

/-- The stream starts with the preamble and a valid header (R153, R155, R156). -/
structure Candidate (c : Config) (u : List Byte) : Prop where
  preamble : u.take 4 = leBytes 4 c.preamble
  known : streamId u < 2
  fits : streamLength u < c.capacity
  twelve_le : 12 ≤ streamLength u

/-- The search that ends with a frame at the front of the stream. -/
def streamFrame (id : Half) (body : List Byte) : StreamResult :=
  { consumed := 12 + body.length, flags := 0#3, response := frameDecoded id body }

@[simp] theorem StreamResult.after_consumed (R : StreamResult) (n : Nat) (e : Event) :
    (R.after n e).consumed = n + R.consumed := rfl
@[simp] theorem StreamResult.after_flags (R : StreamResult) (n : Nat) (e : Event) :
    (R.after n e).flags = e.bit ||| R.flags := rfl
@[simp] theorem StreamResult.after_response (R : StreamResult) (n : Nat) (e : Event) :
    (R.after n e).response = R.response := rfl

/-- The search over a stream, by what it finds at the front. -/
inductive StreamReads (c : Config) : List Byte → StreamResult → Prop
  | few {u : List Byte} (hfew : u.length ≤ 8) : StreamReads c u streamNoFrame
  | wait {u : List Byte} (hcand : Candidate c u) (hwait : u.length < streamLength u) : StreamReads c u streamNoFrame
  | resync {u : List Byte} {R : StreamResult} (hmore : 8 < u.length) (hbad : ¬ Candidate c u)
      (hrest : StreamReads c (u.drop 1) R) : StreamReads c u (R.after 1 .syncLoss)
  | deliver {u : List Byte} (hcand : Candidate c u) (hall : streamLength u ≤ u.length)
      (hsum : streamField u = leBytes 4 (checksum (streamBody u))) :
      StreamReads c u (streamFrame (BitVec.ofNat 16 (streamId u)) (streamBody u))
  | reject {u : List Byte} {R : StreamResult} (hcand : Candidate c u) (hall : streamLength u ≤ u.length)
      (hsum : streamField u ≠ leBytes 4 (checksum (streamBody u)))
      (hrest : StreamReads c (u.drop (streamLength u)) R) :
      StreamReads c u (R.after (streamLength u) .checksumMismatch)

theorem candidate_iff : Candidate c u ↔ u.take 4 = leBytes 4 c.preamble ∧
    (streamId u < numIds ∧ streamLength u < c.capacity ∧ minFrame ≤ streamLength u) :=
  ⟨fun h => ⟨h.preamble, h.known, h.fits, h.twelve_le⟩, fun ⟨hpre, hid, hlt, hmin⟩ => ⟨hpre, hid, hlt, hmin⟩⟩

theorem Candidate.length_streamBody (hcand : Candidate c u) (hall : streamLength u ≤ u.length) :
    12 + (streamBody u).length = streamLength u := by
  have hmin := hcand.twelve_le
  rw [List.length_take, List.length_drop]
  omega

/-! ## The relation is the function -/

theorem streamSearch_of_few (hfew : u.length ≤ 8) (n : Nat) : streamSearch c n u = streamNoFrame := by
  cases n with
  | zero => rfl
  | succ n => exact if_pos hfew

theorem streamSearch_of_bad (hmore : 8 < u.length) (hbad : ¬ Candidate c u) (n : Nat) :
    streamSearch c (n + 1) u = (streamSearch c n (u.drop 1)).after 1 .syncLoss := by
  rw [candidate_iff] at hbad
  rw [streamSearch, if_neg (Nat.not_le.2 hmore)]
  split
  · rfl
  next hpre => exact if_pos fun hvalid => hbad ⟨not_not.1 hpre, hvalid⟩

theorem streamSearch_of_candidate (hmore : 8 < u.length) (hcand : Candidate c u) (n : Nat) :
    streamSearch c (n + 1) u =
      if u.length < streamLength u then streamNoFrame
      else if streamField u = leBytes 4 (checksum (streamBody u)) then
        { consumed := streamLength u, flags := 0#3,
          response := frameDecoded (BitVec.ofNat 16 (streamId u)) (streamBody u) }
      else (streamSearch c n (u.drop (streamLength u))).after (streamLength u) .checksumMismatch := by
  obtain ⟨hpre, hvalid⟩ := candidate_iff.1 hcand
  rw [streamSearch, if_neg (Nat.not_le.2 hmore), if_neg (not_not.2 hpre), if_neg (not_not.2 hvalid)]

/-- The search of the relation is that of the function, which has enough candidates with one for each byte (R164). -/
theorem StreamReads.streamSearch_eq (h : StreamReads c u R) (hn : u.length ≤ n) : streamSearch c n u = R := by
  induction h generalizing n with
  | few hfew => exact streamSearch_of_few hfew n
  | @wait u hcand hwait =>
    rcases Nat.lt_or_ge 8 u.length with hmore | hfew
    · obtain ⟨n, rfl⟩ : ∃ m, n = m + 1 := ⟨n - 1, by omega⟩
      rw [streamSearch_of_candidate hmore hcand, if_pos hwait]
    · exact streamSearch_of_few hfew n
  | @resync u R hmore hbad _ ih =>
    obtain ⟨n, rfl⟩ : ∃ m, n = m + 1 := ⟨n - 1, by omega⟩
    rw [streamSearch_of_bad hmore hbad, ih (by rw [List.length_drop]; omega)]
  | @deliver u hcand hall hsum =>
    have hmin := hcand.twelve_le
    obtain ⟨n, rfl⟩ : ∃ m, n = m + 1 := ⟨n - 1, by omega⟩
    rw [streamSearch_of_candidate (by omega) hcand, if_neg (Nat.not_lt.2 hall), if_pos hsum, streamFrame,
      hcand.length_streamBody hall]
  | @reject u R hcand hall hsum _ ih =>
    have hmin := hcand.twelve_le
    obtain ⟨n, rfl⟩ : ∃ m, n = m + 1 := ⟨n - 1, by omega⟩
    rw [streamSearch_of_candidate (by omega) hcand, if_neg (Nat.not_lt.2 hall), if_neg hsum,
      ih (by rw [List.length_drop]; omega)]

theorem StreamReads.streamRead_eq (h : StreamReads c u R) : streamRead c u = R := h.streamSearch_eq (Nat.le_refl _)

theorem StreamReads.unique {R' : StreamResult} (h : StreamReads c u R) (h' : StreamReads c u R') : R = R' :=
  h.streamRead_eq.symm.trans h'.streamRead_eq

/-! ## The unread bytes as a stream -/

@[simp] theorem State.length_unreadBytes (s : State) : s.unreadBytes.length = s.unread := s.peekBytes_length ..

theorem State.RingInv.unreadBytes_advanceRead (h : s.RingInv) (hn : n ≤ s.unread) :
    (s.advanceRead n).unreadBytes = s.unreadBytes.drop n := by
  have hcount : (s.advanceRead n).unread + n = s.unread := State.unread_advanceRead h.wcur_lt h.rcur_lt hn
  calc (s.advanceRead n).unreadBytes
      = s.peekBytes ((s.rcur + n) % s.cfg.capacity) (s.advanceRead n).unread := rfl
    _ = (s.unreadBytes.drop n).take (s.advanceRead n).unread := by
        rw [s.peekBytes_mod, State.unreadBytes, s.peekBytes_sub _ _ _ _ (by omega)]
    _ = s.unreadBytes.drop n := List.take_of_length_le (by rw [List.length_drop, s.length_unreadBytes]; omega)

/-- A field of the candidate at the read cursor is a part of the unread bytes. -/
theorem State.peekU32_rcur_eq_iff (hmore : 8 ≤ s.unread) (w : Word) :
    s.peekU32 s.rcur = w ↔ s.unreadBytes.take 4 = leBytes 4 w := by
  have hpeek := State.peekBytes_of_unreadBytes (s := s) rfl (a := 0) (n := 4) (by rw [s.length_unreadBytes]; omega)
  rw [s.peekU32_eq_iff, ← List.drop_zero (l := s.unreadBytes), ← hpeek]
  rfl

theorem State.peekU16_rcur_toNat (s : State) {a : Nat} (hin : a + 2 ≤ s.unread) :
    (s.peekU16 (s.rcur + a)).toNat = uLe ((s.unreadBytes.drop a).take 2) := by
  rw [s.peekU16_toNat, State.peekBytes_of_unreadBytes rfl (by rwa [s.length_unreadBytes])]

theorem State.ofNat_streamId_unreadBytes (hmore : 8 ≤ s.unread) :
    BitVec.ofNat 16 (streamId s.unreadBytes) = s.peekU16 (s.rcur + 4) := by
  rw [streamId, ← s.peekU16_rcur_toNat (by omega), BitVec.ofNat_toNat, BitVec.setWidth_eq]

theorem State.candidate_unreadBytes_iff (hmore : 8 ≤ s.unread) :
    Candidate s.cfg s.unreadBytes ↔ s.peekU32 s.rcur = s.cfg.preamble ∧ s.candidateValid := by
  rw [candidate_iff, State.peekU32_rcur_eq_iff hmore, State.candidateValid, headerValid,
    s.peekU16_rcur_toNat (by omega), s.peekU16_rcur_toNat (by omega)]

section
variable (hmin : 12 ≤ (s.peekU16 (s.rcur + 6)).toNat) (hall : (s.peekU16 (s.rcur + 6)).toNat ≤ s.unread)
include hmin hall

theorem State.streamLength_unreadBytes : streamLength s.unreadBytes = (s.peekU16 (s.rcur + 6)).toNat :=
  (s.peekU16_rcur_toNat (by omega)).symm

theorem State.streamBody_unreadBytes : streamBody s.unreadBytes = s.candidateBody := by
  rw [streamBody, State.streamLength_unreadBytes hmin hall, s.candidateBody_eq,
    State.peekBytes_of_unreadBytes rfl (by rw [s.length_unreadBytes]; omega)]

theorem State.streamField_unreadBytes_eq_iff (w : Word) :
    streamField s.unreadBytes = leBytes 4 w ↔ s.candidateField = w := by
  rw [streamField, State.streamLength_unreadBytes hmin hall, s.candidateField_eq, s.peekU32_eq_iff,
    Nat.add_sub_assoc (by omega), State.peekBytes_of_unreadBytes rfl (by rw [s.length_unreadBytes]; omega)]

end

/-! ## The loop is the search over the unread bytes -/

/-- What a search does to the ring and STATUS. -/
def State.consume (s : State) (R : StreamResult) : State :=
  { s.advanceRead R.consumed with status := s.status ||| R.flags }

theorem State.RingInv.consume_streamNoFrame (h : s.RingInv) : s.consume streamNoFrame = s := by
  rw [State.consume, streamNoFrame, State.advanceRead, Nat.add_zero, Nat.mod_eq_of_lt h.rcur_lt, BitVec.or_zero]

theorem State.consume_streamFrame (s : State) (id : Half) (body : List Byte) :
    s.consume (streamFrame id body) = s.advanceRead (12 + body.length) := by
  rw [State.consume, streamFrame, BitVec.or_zero]
  rfl

/-- A pass that gives up `n` bytes with an event, and the search behind them. -/
theorem State.consume_after (s : State) (n : Nat) (e : Event) (R : StreamResult) :
    ((s.advanceRead n).raise e).consume R = s.consume (R.after n e) := by
  simp only [State.consume, State.raise, State.advanceRead, StreamResult.after, Nat.mod_add_mod, Nat.add_assoc,
    BitVec.or_assoc]

/-- The pass that responds is the last candidate of the search. -/
theorem State.RingInv.streamReads_of_done (h : s.RingInv) (hdone : s.searchPass = .done t r) :
    ∃ R, StreamReads s.cfg s.unreadBytes R ∧ t = s.consume R ∧ r = R.response := by
  obtain ⟨hpass, hstay⟩ | ⟨hpass, -⟩ | ⟨hmore, hpre, hvalid, hall, ⟨hpass, hsum⟩ | ⟨hpass, -⟩⟩ :=
    s.searchPass_cases
  · cases hpass.symm.trans hdone
    refine ⟨streamNoFrame, ?_, h.consume_streamNoFrame.symm, rfl⟩
    rcases Nat.lt_or_ge 8 s.unread with hmore | hfew
    · obtain ⟨hpre, hvalid, hwait⟩ := hstay.resolve_left (Nat.not_le.2 hmore)
      refine .wait ((State.candidate_unreadBytes_iff hmore.le).2 ⟨hpre, hvalid⟩) ?_
      rwa [s.length_unreadBytes, streamLength, ← s.peekU16_rcur_toNat hmore.le]
    · exact .few (s.length_unreadBytes.trans_le hfew)
  · cases hpass.symm.trans hdone
  · cases hpass.symm.trans hdone
    have hcand := (State.candidate_unreadBytes_iff hmore.le).2 ⟨hpre, hvalid⟩
    obtain ⟨-, -, hmin⟩ := hvalid
    have hlen := State.streamLength_unreadBytes hmin hall
    have hbody := State.streamBody_unreadBytes hmin hall
    have hread := StreamReads.deliver hcand (by rwa [hlen, s.length_unreadBytes])
      ((State.streamField_unreadBytes_eq_iff hmin hall _).2 (by rw [hbody, hsum]))
    rw [State.ofNat_streamId_unreadBytes hmore.le, hbody] at hread
    refine ⟨_, hread, ?_, rfl⟩
    rw [s.consume_streamFrame, State.peekBytes_length, Nat.add_sub_cancel' hmin]
  · cases hpass.symm.trans hdone

/-- A pass that goes round again gives up what the search gives up, and the search goes on behind it. -/
theorem State.RingInv.streamReads_of_again (h : s.RingInv) (hagain : s.searchPass = .again t) :
    ∃ n e, t = (s.advanceRead n).raise e ∧
      ∀ R, StreamReads s.cfg t.unreadBytes R → StreamReads s.cfg s.unreadBytes (R.after n e) := by
  obtain ⟨hpass, -⟩ | ⟨hpass, hmore, hbad⟩ | ⟨hmore, hpre, hvalid, hall, ⟨hpass, -⟩ | ⟨hpass, hsum⟩⟩ :=
    s.searchPass_cases
  · cases hpass.symm.trans hagain
  · cases hpass.symm.trans hagain
    refine ⟨1, .syncLoss, rfl, fun R hrest => .resync (s.length_unreadBytes.symm ▸ hmore) ?_ ?_⟩
    · rw [State.candidate_unreadBytes_iff hmore.le]
      exact fun ⟨hpre, hvalid⟩ => hbad.elim (· hpre) (· hvalid)
    · rw [← h.unreadBytes_advanceRead (by omega)]
      exact hrest
  · cases hpass.symm.trans hagain
  · cases hpass.symm.trans hagain
    have hcand := (State.candidate_unreadBytes_iff hmore.le).2 ⟨hpre, hvalid⟩
    obtain ⟨-, -, hmin⟩ := hvalid
    have hlen := State.streamLength_unreadBytes hmin hall
    refine ⟨_, .checksumMismatch, rfl, fun R hrest => ?_⟩
    rw [← hlen]
    refine .reject hcand (by rwa [hlen, s.length_unreadBytes]) ?_ ?_
    · rw [ne_eq, State.streamField_unreadBytes_eq_iff hmin hall, State.streamBody_unreadBytes hmin hall]
      exact Ne.symm hsum
    · rw [hlen, ← h.unreadBytes_advanceRead hall]
      exact hrest

/-- The loop of R163 is the search over the unread bytes. -/
theorem State.RingInv.streamReads_of_searchLoop (h : s.RingInv) (hloop : State.searchLoop n s = some (t, r)) :
    ∃ R, StreamReads s.cfg s.unreadBytes R ∧ t = s.consume R ∧ r = R.response := by
  induction n generalizing s with
  | zero => cases hloop
  | succ n ih =>
    rw [State.searchLoop] at hloop
    cases hpass : s.searchPass with
    | done t r =>
      rw [hpass] at hloop
      cases hloop
      exact h.streamReads_of_done hpass
    | again u =>
      rw [hpass] at hloop
      obtain ⟨hring, -⟩ := h.searchPass_again hpass
      obtain ⟨R, hrest, ht, hr⟩ := ih hring hloop
      obtain ⟨n, e, rfl, hread⟩ := h.streamReads_of_again hpass
      exact ⟨_, hread R hrest, ht.trans (s.consume_after n e R), hr⟩

/-! ## TRY_READ -/

/-- The state in which a TRY_READ ends whose search over the drained state `s` does `R`. -/
def State.endSearch (s : State) (R : StreamResult) : State := (s.consume R).releaseLatch.respond R.response

/-- All of TRY_READ in one equation: the drain, then what the search over the stream says. -/
theorem exec_tryRead_eq_endSearch (h : s.Inv) :
    ∃ R, StreamReads s.cfg s.stream R ∧ exec .tryRead s = .next (s.drain.endSearch R) := by
  obtain ⟨t, r, hloop⟩ := h.ringInv.drain_searchLoop
  obtain ⟨R, hread, rfl, rfl⟩ := h.ringInv.drain.streamReads_of_searchLoop hloop
  rw [s.drain_cfg, h.ringInv.drain_unreadBytes] at hread
  exact ⟨R, hread, exec_tryRead_eq_of_searchLoop h (Nat.sub_le ..) hloop⟩

end Sys2Proof.Machine
end

section
/-! PROOFS. What a TRY_READ does to the stream of unread and drained bytes (`43_frame_decoder.md` R163, R167), and
what it leaves unchanged. -/

namespace Sys2Proof.Machine

variable {c : Config} {u : List Byte} {R : StreamResult} {s t : State}

/-! ## The search over a stream -/

theorem StreamReads.consumed_le (h : StreamReads c u R) : R.consumed ≤ u.length := by
  induction h with
  | few | wait => exact Nat.zero_le _
  | resync hmore _ _ ih =>
    rw [List.length_drop] at ih
    rw [StreamResult.after_consumed]
    omega
  | deliver hcand hall => exact (hcand.length_streamBody hall).trans_le hall
  | reject _ hall _ _ ih =>
    rw [List.length_drop] at ih
    rw [StreamResult.after_consumed]
    omega

/-- The search raises no `Overrun` (`43_frame_decoder.md` R151: the drain does). -/
theorem StreamReads.flags_ovr (h : StreamReads c u R) : R.flags.getLsbD 0 = false := by
  induction h with
  | few | wait => rfl
  | deliver => rw [streamFrame, BitVec.getLsbD_zero]
  | resync _ _ _ ih | reject _ _ _ _ ih => rw [StreamResult.after_flags, BitVec.getLsbD_or, ih]; rfl

/-- A stream as long as a full buffer always loses a byte: there is no room for the frame to be incomplete. -/
theorem StreamReads.consumed_pos (h : StreamReads c u R) (hmore : 8 < u.length) (hfull : c.capacity ≤ u.length + 1) :
    0 < R.consumed := by
  cases h with
  | few hfew => omega
  | wait hcand hwait =>
    have hfits := hcand.fits
    omega
  | resync => exact Nat.lt_add_right _ Nat.one_pos
  | deliver => exact Nat.lt_add_right _ (by decide)
  | reject hcand => exact Nat.lt_add_right _ (Nat.lt_of_lt_of_le (by decide) hcand.twelve_le)

theorem leBytes_ofNat_uLe {n : Nat} {l : List Byte} (hl : l.length = n) :
    leBytes n (BitVec.ofNat (8 * n) (uLe l)) = l := by
  have hlt := uLe_lt l
  rw [hl] at hlt
  refine uLe_inj (by rw [leBytes_length, hl]) ?_
  rw [uLe_leBytes, BitVec.toNat_ofNat, Nat.mod_mod, Nat.mod_eq_of_lt hlt]

/-- A candidate that is all there with a matching checksum is a frame (`42_frame_encoder.md` R141). -/
theorem Candidate.take_eq_frame (hcand : Candidate c u) (hall : streamLength u ≤ u.length)
    (hsum : streamField u = leBytes 4 (checksum (streamBody u))) :
    u.take (streamLength u) = frame c (BitVec.ofNat 16 (streamId u)) (streamBody u) := by
  have hmin := hcand.twelve_le
  have hid : leBytes 2 (BitVec.ofNat 16 (streamId u)) = (u.drop 4).take 2 :=
    leBytes_ofNat_uLe (by rw [List.length_take, List.length_drop]; omega)
  have hlen : leBytes 2 (BitVec.ofNat 16 (8 + (streamBody u).length + 4)) = (u.drop 6).take 2 := by
    rw [show 8 + (streamBody u).length + 4 = streamLength u by have := hcand.length_streamBody hall; omega]
    exact leBytes_ofNat_uLe (by rw [List.length_take, List.length_drop]; omega)
  have hsplit : streamLength u = 4 + 2 + 2 + (streamLength u - 12) + 4 := by omega
  rw [frame, hid, hlen, ← hsum, ← hcand.preamble]
  conv_lhs => rw [hsplit]
  rw [List.take_add, List.take_add, List.take_add, List.take_add]
  rw [show 4 + 2 + 2 + (streamLength u - 12) = streamLength u - 4 by omega]

/-- A search that ends with OK delivers a frame of the stream, and ends behind it. -/
theorem StreamReads.delivered (h : StreamReads c u R) (hok : R.response.code = .ok) :
    ∃ k id body, (u.drop k).take (12 + body.length) = frame c id body ∧ id.toNat < 2 ∧
      12 + body.length < c.capacity ∧ R.response = frameDecoded id body ∧ R.consumed = k + (12 + body.length) := by
  induction h with
  | few | wait => cases hok
  | @resync u R _ _ _ ih =>
    obtain ⟨k, id, body, hframe, hid, hfits, hresponse, hconsumed⟩ := ih hok
    rw [List.drop_drop] at hframe
    refine ⟨1 + k, id, body, hframe, hid, hfits, hresponse, ?_⟩
    rw [StreamResult.after_consumed, hconsumed, Nat.add_assoc]
  | @deliver u hcand hall hsum =>
    have hlen := hcand.length_streamBody hall
    refine ⟨0, _, _, ?_, ?_, ?_, rfl, (Nat.zero_add _).symm⟩
    · rw [hlen, List.drop_zero, hcand.take_eq_frame hall hsum]
    · rw [BitVec.toNat_ofNat]
      exact (Nat.mod_le ..).trans_lt hcand.known
    · rw [hlen]
      exact hcand.fits
  | @reject u R _ _ _ _ ih =>
    obtain ⟨k, id, body, hframe, hid, hfits, hresponse, hconsumed⟩ := ih hok
    rw [List.drop_drop] at hframe
    refine ⟨streamLength u + k, id, body, hframe, hid, hfits, hresponse, ?_⟩
    rw [StreamResult.after_consumed, hconsumed, Nat.add_assoc]

/-! ## TRY_READ -/

@[simp] theorem State.endSearch_cfg (s : State) (R : StreamResult) : (s.endSearch R).cfg = s.cfg := rfl
@[simp] theorem State.endSearch_rcur (s : State) (R : StreamResult) :
    (s.endSearch R).rcur = (s.rcur + R.consumed) % s.cfg.capacity := rfl
@[simp] theorem State.endSearch_status (s : State) (R : StreamResult) :
    (s.endSearch R).status = s.status ||| R.flags := rfl
@[simp] theorem State.endSearch_rxq (s : State) (R : StreamResult) : (s.endSearch R).rxq = s.rxq := rfl
@[simp] theorem State.endSearch_responses (s : State) (R : StreamResult) :
    (s.endSearch R).responses = s.responses ++ [R.response] := rfl

theorem exec_tryRead_of_streamReads (h : s.Inv) (hread : StreamReads s.cfg s.stream R) :
    exec .tryRead s = .next (s.drain.endSearch R) := by
  obtain ⟨R', hread', hrun⟩ := exec_tryRead_eq_endSearch h
  rwa [hread.unique hread']

/-- What the search consumes is gone from the stream, and the rest is unread. -/
theorem State.RingInv.unreadBytes_endSearch (h : s.RingInv) (hread : StreamReads s.cfg s.stream R) :
    (s.drain.endSearch R).unreadBytes = s.stream.drop R.consumed := by
  have hle := hread.consumed_le
  rw [← h.drain_unreadBytes] at hle ⊢
  rw [State.length_unreadBytes] at hle
  exact h.drain.unreadBytes_advanceRead hle

theorem State.RingInv.unread_endSearch (h : s.RingInv) (hread : StreamReads s.cfg s.stream R) :
    (s.drain.endSearch R).unread = s.stream.length - R.consumed := by
  rw [← State.length_unreadBytes, h.unreadBytes_endSearch hread, List.length_drop]

theorem State.RingInv.length_stream (h : s.RingInv) : s.stream.length = s.drain.unread := by
  rw [← h.drain_unreadBytes, State.length_unreadBytes]

/-- Settles O35: the search that TRY_READ runs is the function's, and what it leaves is unread. -/
theorem tryReadIsAFunctionOfTheByteStream : Obligations.TryReadIsAFunctionOfTheByteStream := by
  intro s hinv
  obtain ⟨R, hread, hrun⟩ := exec_tryRead_eq_endSearch hinv
  rw [hread.streamRead_eq]
  refine ⟨_, hrun, ?_, ?_, rfl, hread.consumed_le, hinv.ringInv.unreadBytes_endSearch hread⟩
  · rw [State.endSearch_responses, State.drain_responses]
  · rw [State.endSearch_rcur, State.drain_rcur, State.drain_cfg]

/-- Settles O36: the response is that of a search over the stream, and what a search delivers was there. -/
theorem deliveredFrameWasInTheStream : Obligations.DeliveredFrameWasInTheStream := by
  intro s t r hinv hrun hresponses hok
  obtain ⟨R, hread, hrun'⟩ := exec_tryRead_eq_endSearch hinv
  rw [hrun'] at hrun
  cases hrun
  rw [State.endSearch_responses, State.drain_responses] at hresponses
  obtain rfl : R.response = r := List.singleton_inj.1 (List.append_cancel_left hresponses)
  obtain ⟨k, id, body, hframe, hid, hfits, hresponse, hconsumed⟩ := hread.delivered hok
  have hle := hread.consumed_le
  obtain ⟨-, hcap, -⟩ := hinv.cfg_wf
  rw [hresponse]
  refine ⟨k, hframe, hid, ?_, hfits, ?_, ?_⟩
  · exact Nat.mod_eq_of_lt (by omega)
  · show k + 12 + body.length ≤ s.stream.length
    omega
  · rw [State.endSearch_rcur, State.drain_rcur, State.drain_cfg, hconsumed]
    simp only [frameDecoded, Nat.add_assoc]

/-- Settles O38: the stream is as long as a full buffer, so the search consumes some of it. -/
theorem fullBufferNeverStalls : Obligations.FullBufferNeverStalls := by
  intro s t hinv hfull hrun
  obtain ⟨R, hread, hrun'⟩ := exec_tryRead_eq_endSearch hinv
  rw [hrun'] at hrun
  cases hrun
  obtain ⟨hmin, -⟩ := hinv.cfg_wf
  have hlen := hinv.ringInv.length_stream
  have hpos : 0 < R.consumed := hread.consumed_pos (by omega) (by omega)
  have hle := hread.consumed_le
  refine ⟨?_, fun hsame => ?_⟩
  · rw [hinv.ringInv.unread_endSearch hread]
    omega
  · rw [State.endSearch_rcur, State.drain_rcur, State.drain_cfg] at hsame
    have hzero : R.consumed = 0 := add_mod_injective hinv.rcur_lt (by omega) (by omega)
      (hsame.trans (Nat.mod_eq_of_lt hinv.rcur_lt).symm)
    omega

/-- Settles O28: the drained state has the same stream and nothing to drain, so the same search follows. -/
theorem tryReadIsTheDrainThenTheSearch : Obligations.TryReadIsTheDrainThenTheSearch := by
  intro s hinv
  obtain ⟨R, hread, hrun⟩ := exec_tryRead_eq_endSearch hinv
  have hinv' : (s.drain.setRxq []).Inv :=
    hinv.of_ringInv (hinv.ringInv.drain.congr rfl rfl rfl rfl) s.drain_cfg s.drain_fsm s.drain_latch
  have hdrain : (s.drain.setRxq []).drain = s.drain.setRxq [] := State.drain_of_rxq_nil rfl
  have hstream : (s.drain.setRxq []).stream = s.stream :=
    calc (s.drain.setRxq []).stream = (s.drain.setRxq []).unreadBytes := by
          rw [← hinv'.ringInv.drain_unreadBytes, hdrain]
      _ = s.drain.unreadBytes := rfl
      _ = s.stream := hinv.ringInv.drain_unreadBytes
  have hread' : StreamReads (s.drain.setRxq []).cfg (s.drain.setRxq []).stream R := by
    rwa [hstream, State.setRxq_cfg, s.drain_cfg]
  have hrun' := exec_tryRead_of_streamReads hinv' hread'
  rw [hdrain] at hrun'
  exact ⟨_, hrun', hrun⟩

theorem State.RingInv.drain_ovr (h : s.RingInv) :
    s.drain.ovr = (s.ovr || decide (s.cfg.capacity - 1 - s.unread < s.rxq.length)) := by
  rw [State.ovr, h.drain_eq]
  by_cases hover : s.cfg.capacity - 1 - s.unread < s.rxq.length
  · simp [hover]
  · simp [hover, State.ovr]

/-- Settles O47: the search moves `rcur`, sets flags but not `OVR`, and stores nothing; the rest is the drain's. -/
theorem tryReadFrame : Obligations.TryReadFrame := by
  intro s t hinv hrun
  have hrej : s.rej = true → t.rej = true := exec_tryRead_keeps_flag hrun
  have hrsy : s.rsy = true → t.rsy = true := exec_tryRead_keeps_flag hrun
  obtain ⟨R, hread, hrun'⟩ := exec_tryRead_eq_endSearch hinv
  rw [hrun'] at hrun
  cases hrun
  refine ⟨?frame, fun j => hinv.ringInv.drain_readByte_moved, fun a => hinv.ringInv.drain_readByte_other, ?ovr,
    hrej, hrsy⟩
  case frame =>
    have hdrain := hinv.ringInv.drain_eq
    generalize s.drain.buf = bytes at hdrain
    rw [hdrain]
    rfl
  case ovr =>
    rw [← hinv.ringInv.drain_ovr, State.ovr, State.endSearch_status, BitVec.getLsbD_or, hread.flags_ovr, Bool.or_false]
    rfl

end Sys2Proof.Machine
end

section
/-! PROOFS. Streams with frames in them (`43_frame_decoder.md` R168, R169; `70_reset_and_hazards.md` R244): one behind
another, cut in two, with a bit flipped, behind noise; and what arrives of them at an empty block. -/

namespace Sys2Proof.Machine

variable {c : Config} {id : Half} {body field first rest noise u : List Byte} {R : StreamResult} {s t : State}

/-! ## A stream that starts with the header of a frame -/

/-- The eight bytes before the body of a frame (`42_frame_encoder.md` R141). -/
def frameHeader (c : Config) (id : Half) (total : Nat) : List Byte :=
  leBytes 4 c.preamble ++ (leBytes 2 id ++ leBytes 2 (BitVec.ofNat 16 total))

@[simp] theorem frameHeader_length (c : Config) (id : Half) (total : Nat) : (frameHeader c id total).length = 8 := by
  simp only [frameHeader, List.length_append, leBytes_length]

theorem frame_eq_frameHeader_append (c : Config) (id : Half) (body : List Byte) :
    frame c id body = frameHeader c id (12 + body.length) ++ (body ++ leBytes 4 (checksum body)) := by
  have hsum : 8 + body.length + 4 = 12 + body.length := by omega
  rw [← List.append_nil (frame c id body), frame_append, List.append_nil, hsum, frameHeader]
  simp only [List.append_assoc]

theorem streamId_frameHeader (total : Nat) : streamId (frameHeader c id total ++ rest) = id.toNat := by
  rw [streamId, frameHeader, List.append_assoc, List.append_assoc, List.drop_left' (leBytes_length ..),
    List.take_left' (leBytes_length ..), uLe_leBytes_of_le _ (by decide)]

theorem streamLength_frameHeader {total : Nat} (htotal : total < 65536) :
    streamLength (frameHeader c id total ++ rest) = total := by
  rw [streamLength, frameHeader, ← List.append_assoc, List.append_assoc, List.drop_left' (by simp),
    List.take_left' (leBytes_length ..), uLe_leBytes_of_le _ (by decide), BitVec.toNat_ofNat, Nat.mod_eq_of_lt htotal]

/-- A frame of this identifier and body can be decoded by a block of this configuration (R156, R157). -/
structure Decodable (c : Config) (id : Half) (body : List Byte) : Prop where
  known : id.toNat < 2
  fits : 12 + body.length < c.capacity
  capacity_le : c.capacity ≤ 65536

theorem Decodable.congr {body' : List Byte} (h : Decodable c id body) (hlen : body'.length = body.length) :
    Decodable c id body' := ⟨h.known, hlen ▸ h.fits, h.capacity_le⟩

theorem Decodable.streamLength_eq (h : Decodable c id body) :
    streamLength (frameHeader c id (12 + body.length) ++ rest) = 12 + body.length :=
  streamLength_frameHeader (h.fits.trans_le h.capacity_le)

theorem Decodable.candidate (h : Decodable c id body) :
    Candidate c (frameHeader c id (12 + body.length) ++ rest) where
  preamble := by rw [frameHeader, List.append_assoc, List.take_left' (leBytes_length ..)]
  known := by rw [streamId_frameHeader]; exact h.known
  fits := by rw [h.streamLength_eq]; exact h.fits
  twelve_le := by rw [h.streamLength_eq]; exact Nat.le_add_right ..

theorem Decodable.streamBody_eq (h : Decodable c id body) :
    streamBody (frameHeader c id (12 + body.length) ++ (body ++ rest)) = body := by
  rw [streamBody, h.streamLength_eq, List.drop_left' (frameHeader_length ..), Nat.add_sub_cancel_left,
    List.take_left' rfl]

theorem Decodable.streamField_eq (h : Decodable c id body) (hfield : field.length = 4) :
    streamField (frameHeader c id (12 + body.length) ++ (body ++ (field ++ rest))) = field := by
  rw [streamField, h.streamLength_eq, ← List.append_assoc,
    List.drop_left' (by rw [List.length_append, frameHeader_length]; omega), List.take_left' hfield]

/-! ## Searches over such streams -/

theorem StreamReads.of_frame (h : Decodable c id body) (rest : List Byte) :
    StreamReads c (frame c id body ++ rest) (streamFrame id body) := by
  have hall : 12 + body.length ≤ (frame c id body ++ rest).length := by
    rw [List.length_append, frame_length]
    exact Nat.le_add_right ..
  rw [frame_eq_frameHeader_append, List.append_assoc, List.append_assoc] at hall ⊢
  have hread := StreamReads.deliver h.candidate (by rwa [h.streamLength_eq])
    (by rw [h.streamField_eq (leBytes_length ..), h.streamBody_eq])
  rwa [streamId_frameHeader, h.streamBody_eq, BitVec.ofNat_toNat, BitVec.setWidth_eq] at hread

/-- A frame with another checksum field is given up as a whole (R161, R162). -/
theorem StreamReads.of_bad_field (h : Decodable c id body) (hfield : field.length = 4)
    (hbad : field ≠ leBytes 4 (checksum body)) (hrest : StreamReads c rest R) :
    StreamReads c (frameHeader c id (12 + body.length) ++ (body ++ (field ++ rest)))
      (R.after (12 + body.length) .checksumMismatch) := by
  have hread := StreamReads.reject (u := frameHeader c id (12 + body.length) ++ (body ++ (field ++ rest))) (R := R)
    h.candidate (by rw [h.streamLength_eq]; simp only [List.length_append, frameHeader_length]; omega)
    (by rwa [h.streamField_eq hfield, h.streamBody_eq]) ?_
  · rwa [h.streamLength_eq] at hread
  · rwa [h.streamLength_eq, ← List.append_assoc, ← List.append_assoc,
      List.drop_left' (by simp only [List.length_append, frameHeader_length]; omega)]

/-- A part of a frame is waited for (R152, R158). -/
theorem StreamReads.of_frame_part (h : Decodable c id body) (hparts : first ++ rest = frame c id body)
    (hrest : rest ≠ []) : StreamReads c first streamNoFrame := by
  have hlen := congrArg List.length hparts
  rw [List.length_append, frame_length] at hlen
  have hpos : 0 < rest.length := List.length_pos_iff.2 hrest
  rcases Nat.lt_or_ge 8 first.length with hmore | hfew
  · have hheader : first.take 8 = frameHeader c id (12 + body.length) := by
      rw [← List.take_append_of_le_length hmore.le (l₂ := rest), hparts, frame_eq_frameHeader_append,
        List.take_left' (frameHeader_length ..)]
    have hfirst : first = frameHeader c id (12 + body.length) ++ first.drop 8 := by
      rw [← hheader, List.take_append_drop]
    rw [hfirst]
    refine .wait h.candidate ?_
    rw [h.streamLength_eq, ← hfirst]
    omega
  · exact .few hfew

/-- Noise that shows no preamble is given up byte by byte (R153). -/
theorem StreamReads.of_noise (hread : StreamReads c u R) (hmore : 8 < u.length)
    (hnoise : ∀ j, j < noise.length → ((noise ++ u).drop j).take 4 ≠ leBytes 4 c.preamble) :
    ∃ R', StreamReads c (noise ++ u) R' ∧ R'.response = R.response ∧ R'.consumed = noise.length + R.consumed ∧
      R'.flags = if noise = [] then R.flags else Event.syncLoss.bit ||| R.flags := by
  induction noise with
  | nil => exact ⟨R, hread, rfl, (Nat.zero_add _).symm, rfl⟩
  | cons v noise ih =>
    obtain ⟨R', hrest, hresponse, hconsumed, hflags⟩ := ih fun j hj => hnoise (j + 1) (Nat.succ_lt_succ hj)
    have hbad : ¬ Candidate c (v :: noise ++ u) := fun hcand => hnoise 0 (Nat.succ_pos _) hcand.preamble
    have hlong : 8 < (v :: noise ++ u).length := by
      rw [List.length_append]
      omega
    refine ⟨_, .resync hlong hbad hrest, hresponse, ?_, ?_⟩
    · rw [StreamResult.after_consumed, hconsumed, List.length_cons]
      omega
    · rw [StreamResult.after_flags, hflags, if_neg (List.cons_ne_nil v noise)]
      split
      · rfl
      · rw [← BitVec.or_assoc, BitVec.or_self]

/-! ## A flipped bit -/

theorem flipBit_ne {l : List Byte} {i k : Nat} (hi : i < l.length) (hk : k < 8) : flipBit l i k ≠ l := by
  intro hsame
  have hbyte : (flipBit l i k)[i]? = l[i]? := by rw [hsame]
  rw [flipBit, List.getElem?_modify_eq, List.getElem?_eq_getElem hi] at hbyte
  exact xor_one_shiftLeft_ne _ hk (Option.some.inj hbyte)

theorem flipBit_cons_succ (v : Byte) (l : List Byte) (i k : Nat) :
    flipBit (v :: l) (i + 1) k = v :: flipBit l i k := List.modify_succ_cons ..

theorem flipBit_append_right {l l' : List Byte} {i k : Nat} (hi : l.length ≤ i) :
    flipBit (l ++ l') i k = l ++ flipBit l' (i - l.length) k := by
  induction l generalizing i with
  | nil => rfl
  | cons v l ih =>
    cases i with
    | zero => cases hi
    | succ i =>
      rw [List.cons_append, flipBit_cons_succ, ih (Nat.le_of_succ_le_succ hi), List.length_cons, Nat.add_sub_add_right,
        List.cons_append]

theorem flipBit_append_left {l l' : List Byte} {i k : Nat} (hi : i < l.length) :
    flipBit (l ++ l') i k = flipBit l i k ++ l' := by
  induction l generalizing i with
  | nil => cases hi
  | cons v l ih =>
    cases i with
    | zero => rfl
    | succ i =>
      rw [List.cons_append, flipBit_cons_succ, flipBit_cons_succ, ih (Nat.lt_of_succ_lt_succ hi), List.cons_append]

@[simp] theorem flipBit_length (l : List Byte) (i k : Nat) : (flipBit l i k).length = l.length := List.length_modify ..

/-- Equal checksum fields are those of equal CRCs (`41_checksum.md` R133). -/
theorem crc16_eq_of_leBytes_checksum {l l' : List Byte} (h : leBytes 4 (checksum l) = leBytes 4 (checksum l')) :
    crc16 l = crc16 l' := by
  have hnat := congrArg uLe h
  rw [uLe_leBytes_of_le _ (by decide), uLe_leBytes_of_le _ (by decide), checksum_toNat, checksum_toNat] at hnat
  exact BitVec.eq_of_toNat_eq hnat

/-- A bit flipped behind the header is one of the body or one of the checksum field, and the two no longer agree
(`41_checksum.md` R131, R132). -/
theorem flipBit_frame {i k : Nat} (hheader : 8 ≤ i) (hi : i < 12 + body.length) (hk : k < 8) :
    ∃ body' field, flipBit (frame c id body) i k = frameHeader c id (12 + body.length) ++ (body' ++ field) ∧
      body'.length = body.length ∧ field.length = 4 ∧ field ≠ leBytes 4 (checksum body') := by
  rw [frame_eq_frameHeader_append, flipBit_append_right (by rwa [frameHeader_length]), frameHeader_length]
  rcases Nat.lt_or_ge (i - 8) body.length with hbody | hfield
  · refine ⟨flipBit body (i - 8) k, leBytes 4 (checksum body), by rw [flipBit_append_left hbody],
      flipBit_length .., leBytes_length .., fun hsame => ?_⟩
    exact singleBitChangeAlwaysChangesTheCrc body _ _ hbody hk (crc16_eq_of_leBytes_checksum hsame.symm)
  · refine ⟨body, flipBit (leBytes 4 (checksum body)) (i - 8 - body.length) k, by rw [flipBit_append_right hfield],
      rfl, by rw [flipBit_length, leBytes_length], flipBit_ne ?_ hk⟩
    rw [leBytes_length]
    omega

/-! ## What arrives at the block -/

/-- TRY_READ of `s`, whose unread bytes and transport together hold the stream `u`, ends in `t` by the search `R`. -/
structure ReadsTo (s : State) (u : List Byte) (R : StreamResult) (t : State) : Prop where
  run : exec .tryRead s = .next t
  inv : t.Inv
  cfg_eq : t.cfg = s.cfg
  responses_eq : t.responses = s.responses ++ [R.response]
  rcur_eq : t.rcur = (s.rcur + R.consumed) % s.cfg.capacity
  status_eq : t.status = s.status ||| R.flags
  rxq_eq : t.rxq = []
  unreadBytes_eq : t.unreadBytes = u.drop R.consumed

/-- What fits into the ring is all drained. -/
theorem State.drainCount_of_fits (hfits : s.unread + s.rxq.length < s.cfg.capacity) :
    s.drainCount = s.rxq.length := by
  rw [State.drainCount]
  omega

theorem State.Inv.exists_readsTo (h : s.Inv) (hstream : s.unreadBytes ++ s.rxq = u)
    (hfits : u.length < s.cfg.capacity) (hread : StreamReads s.cfg u R) : ∃ t, ReadsTo s u R t := by
  have hring := h.ringInv
  have hroom : s.unread + s.rxq.length < s.cfg.capacity := by
    rwa [← hstream, List.length_append, s.length_unreadBytes] at hfits
  have hcount := State.drainCount_of_fits hroom
  obtain rfl : s.stream = u := by rw [State.stream, hcount, List.take_length, hstream]
  have hrun := exec_tryRead_of_streamReads h hread
  refine ⟨_, hrun, h.exec hrun, ?cfg, ?responses, ?rcur, ?status, ?rxq, hring.unreadBytes_endSearch hread⟩
  case cfg => rw [State.endSearch_cfg, s.drain_cfg]
  case responses => rw [State.endSearch_responses, s.drain_responses]
  case rcur => rw [State.endSearch_rcur, s.drain_rcur, s.drain_cfg]
  case status => rw [State.endSearch_status, hring.drain_status_of_fits hroom]
  case rxq => rw [State.endSearch_rxq, hring.drain_eq, hcount, List.drop_length]

theorem ReadsTo.unread_eq (h : ReadsTo s u R t) : t.unread = u.length - R.consumed := by
  rw [← t.length_unreadBytes, h.unreadBytes_eq, List.length_drop]

/-- At an empty block the stream is what arrives. -/
theorem State.Inv.exists_readsTo_of_empty (h : s.Inv) (hempty : s.unread = 0)
    (hfits : s.rxq.length < s.cfg.capacity) (hread : StreamReads s.cfg s.rxq R) : ∃ t, ReadsTo s s.rxq R t := by
  have hnone : s.unreadBytes = [] := by rw [← List.length_eq_zero_iff, s.length_unreadBytes, hempty]
  exact h.exists_readsTo (by rw [hnone, List.nil_append]) hfits hread

theorem State.Inv.decodable (h : s.Inv) (m : MessageId) (hfits : 12 + body.length < s.cfg.capacity) :
    Decodable s.cfg m.number body := by
  obtain ⟨-, hcap, -⟩ := h.cfg_wf
  exact ⟨messageId_number_toNat_lt m, hfits, hcap⟩

/-- A stream that is one frame is delivered, and nothing is left. -/
theorem State.Inv.exists_readsTo_frame (h : s.Inv) {m : MessageId}
    (hstream : s.unreadBytes ++ s.rxq = frame s.cfg m.number body) (hfits : 12 + body.length < s.cfg.capacity) :
    ∃ t, ReadsTo s (frame s.cfg m.number body) (streamFrame m.number body) t ∧ t.unread = 0 := by
  have hread := StreamReads.of_frame (h.decodable m hfits) []
  rw [List.append_nil] at hread
  obtain ⟨t, hto⟩ := h.exists_readsTo hstream (by rwa [frame_length]) hread
  exact ⟨t, hto, by rw [hto.unread_eq, frame_length]; exact Nat.sub_self _⟩

/-- Settles O41: the first search ends behind the first frame, and the second one starts there. -/
theorem twoFramesTakeTwoReads : Obligations.TwoFramesTakeTwoReads := by
  intro s m m' p p' hinv hempty hrxq hfits
  have hlen : s.rxq.length < s.cfg.capacity := by
    rw [hrxq, List.length_append, frame_length, frame_length]
    omega
  have hread := StreamReads.of_frame (hinv.decodable m (body := p) (by omega)) (frame s.cfg m'.number p')
  rw [← hrxq] at hread
  obtain ⟨t, hfirst⟩ := hinv.exists_readsTo_of_empty hempty hlen hread
  have hleft : t.unreadBytes ++ t.rxq = frame t.cfg m'.number p' := by
    rw [hfirst.rxq_eq, List.append_nil, hfirst.unreadBytes_eq, hrxq, streamFrame, List.drop_left' (frame_length ..),
      hfirst.cfg_eq]
  obtain ⟨t', hsecond, hnone⟩ := hfirst.inv.exists_readsTo_frame hleft (by rw [hfirst.cfg_eq]; omega)
  exact ⟨t, t', hfirst.run, hfirst.responses_eq, hsecond.run, hsecond.responses_eq, hnone⟩

/-- Settles O42: the first search stops with nothing consumed, so the second one has the whole frame before it. -/
theorem partialDeliveryWaitsForTheWholeFrame : Obligations.PartialDeliveryWaitsForTheWholeFrame := by
  rintro s m payload _ rest hinv hempty hfits hparts hrest rfl
  have hlen : s.rxq.length + rest.length = 12 + payload.length := by
    rw [← List.length_append, hparts, frame_length]
  obtain ⟨t, hfirst⟩ := hinv.exists_readsTo_of_empty hempty (by omega)
    (.of_frame_part (hinv.decodable m hfits) hparts hrest)
  have hinv' : (t.setRxq rest).Inv := hfirst.inv.of_ringInv (hfirst.inv.ringInv.congr rfl rfl rfl rfl) rfl rfl rfl
  have hwhole : t.unreadBytes ++ rest = frame t.cfg m.number payload := by
    rw [hfirst.unreadBytes_eq, hfirst.cfg_eq, ← hparts]
    rfl
  obtain ⟨t', hsecond, hnone⟩ := hinv'.exists_readsTo_frame (s := t.setRxq rest) hwhole
    (by rw [State.setRxq_cfg, hfirst.cfg_eq]; exact hfits)
  refine ⟨t, t', hfirst.run, hfirst.responses_eq, ?rcur, ?status, hfirst.unread_eq, hsecond.run,
    hsecond.responses_eq, hnone⟩
  case rcur => exact hfirst.rcur_eq.trans (Nat.mod_eq_of_lt hinv.rcur_lt)
  case status => exact hfirst.status_eq.trans BitVec.or_zero

/-- Settles O43: the search gives up the frame as a whole, and nothing is left behind it. -/
theorem corruptFrameIsConsumedAndRejected : Obligations.CorruptFrameIsConsumedAndRejected := by
  intro s m payload i k hinv hempty hfits hheader hi hk hrxq
  obtain ⟨body, field, hbits, hbody, hfield, hbad⟩ := flipBit_frame (c := s.cfg) (id := m.number) hheader hi hk
  have hdec : Decodable s.cfg m.number body := (hinv.decodable m hfits).congr hbody
  have hread := StreamReads.of_bad_field hdec hfield hbad (rest := []) (.few (Nat.zero_le _))
  rw [List.append_nil, hbody, ← hbits, ← hrxq] at hread
  have hlen : s.rxq.length = 12 + payload.length := by rw [hrxq, flipBit_length, frame_length]
  obtain ⟨t, hto⟩ := hinv.exists_readsTo_of_empty hempty (by rwa [hlen]) hread
  refine ⟨t, hto.run, hto.responses_eq, ?rcur, ?unread, hto.status_eq⟩
  case rcur => rw [hto.rcur_eq, Nat.add_assoc]; rfl
  case unread => rw [hto.unread_eq, hlen]; exact Nat.sub_self _

/-- Settles O44: each byte of the noise is given up, and then the frame is delivered. -/
theorem noiseBeforeAFrameIsSkipped : Obligations.NoiseBeforeAFrameIsSkipped := by
  intro s m noise payload hinv hempty hrxq hfits hnoise
  have hlen : s.rxq.length = noise.length + (12 + payload.length) := by rw [hrxq, List.length_append, frame_length]
  have hframe := StreamReads.of_frame (hinv.decodable m (body := payload) (by omega)) []
  rw [List.append_nil] at hframe
  rw [hrxq] at hnoise
  obtain ⟨R, hread, hresponse, hconsumed, hflags⟩ := hframe.of_noise (by rw [frame_length]; omega) hnoise
  rw [← hrxq] at hread
  obtain ⟨t, hto⟩ := hinv.exists_readsTo_of_empty hempty (by omega) hread
  refine ⟨t, hto.run, ?responses, ?rcur, ?unread, ?status⟩
  case responses => rw [hto.responses_eq, hresponse]; rfl
  case rcur => simp only [hto.rcur_eq, hconsumed, streamFrame, Nat.add_assoc]
  case unread => rw [hto.unread_eq, hlen, hconsumed]; exact Nat.sub_self _
  case status =>
    rw [hto.status_eq, hflags, streamFrame]
    split
    · exact BitVec.or_zero
    · rw [BitVec.or_zero]; rfl

end Sys2Proof.Machine
end

section
/-! PROOFS. The read-out operations (`44_system_ops.md` R190 to R192): which commands are theirs, and what the two
words that they answer hold. -/

namespace Sys2Proof

/-! ## Their rows of `30_encoding.md` R95 -/

section
variable {o : Op} {a b : Half} {din : List Byte}

/-- The row of an operation without operands. -/
theorem Op.accepts_iff_of_no_operands (ha : o.zeroA = BitVec.allOnes 16) (hb : o.zeroB = BitVec.allOnes 16)
    (hdin : o.takesDin = false) : o.Accepts a b din ↔ a = 0#16 ∧ b = 0#16 ∧ din = [] := by
  rw [Op.accepts_iff_of_no_din hdin, ha, hb, BitVec.and_allOnes, BitVec.and_allOnes]

theorem accepts_clrStatus_iff : Op.clrStatus.Accepts a b din ↔ a = 0#16 ∧ b.toNat < 8 ∧ din = [] := by
  have ha : a &&& Op.clrStatus.zeroA = a := BitVec.and_allOnes
  have hb : b &&& Op.clrStatus.zeroB = 0#16 ↔ b.toNat < 8 := and_allOnes_shiftLeft_eq_zero_iff b 3
  rw [Op.accepts_iff_of_no_din rfl, ha, hb]

end

namespace Machine

variable {s : State}

/-! ## The flags -/

/-- A flag stands in `val` of RD_STATUS at its own bit of STATUS (R190). -/
theorem State.statusWord_getLsbD (s : State) {j : Nat} (hj : j < 32) :
    s.statusWord.getLsbD j = s.status.getLsbD j := by
  rw [State.statusWord, BitVec.getLsbD_setWidth, decide_eq_true hj, Bool.true_and]

theorem State.statusWord_toNat_lt (s : State) : s.statusWord.toNat < 8 := by
  rw [State.statusWord, BitVec.toNat_setWidth_of_le (by decide)]
  exact s.status.isLt

theorem State.clearFlags_getLsbD (s : State) (mask : BitVec 3) {j : Nat} (hj : j < 3) :
    (s.clearFlags mask).status.getLsbD j = (s.status.getLsbD j && !mask.getLsbD j) := by
  rw [State.clearFlags_status, BitVec.getLsbD_and, BitVec.getLsbD_not, decide_eq_true hj, Bool.true_and]

/-! ## The cursors -/

/-- Two cursors of 16 bits stand side by side in `val` of RD_CURSORS (R192). -/
theorem State.cursorWord_toNat (hw : s.wcur < 2 ^ 16) (hr : s.rcur < 2 ^ 16) :
    s.cursorWord.toNat = s.wcur * 2 ^ 16 + s.rcur := by
  rw [State.cursorWord, BitVec.toNat_append, BitVec.toNat_ofNat, BitVec.toNat_ofNat, Nat.mod_eq_of_lt hw,
    Nat.mod_eq_of_lt hr, ← Nat.shiftLeft_add_eq_or_of_lt hr, Nat.shiftLeft_eq]

/-- Settles O23: the word answered has the flags of STATUS at their bits and no others. -/
theorem rdStatusReturnsTheFlags : Obligations.RdStatusReturnsTheFlags := by
  refine ⟨fun _ _ _ => Op.rdStatus.commandWord_answered (Op.accepts_iff_of_no_operands rfl rfl rfl),
    fun s => ⟨s.statusWord, rfl, ?ovr, ?rej, ?rsy, s.statusWord_toNat_lt⟩⟩
  case ovr => exact s.statusWord_getLsbD (by decide)
  case rej => exact s.statusWord_getLsbD (by decide)
  case rsy => exact s.statusWord_getLsbD (by decide)

/-- Settles O24: each flag is a bit of STATUS, cleared by its bit of the mask. -/
theorem clrStatusClearsTheMaskedFlags : Obligations.ClrStatusClearsTheMaskedFlags := by
  refine ⟨fun _ _ _ => Op.clrStatus.commandWord_answered accepts_clrStatus_iff,
    fun mask s => ⟨_, rfl, rfl, ?ovr, ?rej, ?rsy⟩⟩
  case ovr => exact s.clearFlags_getLsbD mask (by decide)
  case rej => exact s.clearFlags_getLsbD mask (by decide)
  case rsy => exact s.clearFlags_getLsbD mask (by decide)

/-- Settles O25: the cursors are below the capacity, which is at most `2 ^ 16` (`00_scope.md` R8). -/
theorem rdCursorsReturnsBothCursors : Obligations.RdCursorsReturnsBothCursors := by
  refine ⟨fun _ _ _ => Op.rdCursors.commandWord_answered (Op.accepts_iff_of_no_operands rfl rfl rfl),
    fun s hinv => ⟨s.cursorWord, rfl, ?val⟩⟩
  case val =>
    obtain ⟨-, hcap, -⟩ := hinv.cfg_wf
    exact State.cursorWord_toNat (hinv.wcur_lt.trans_le hcap) (hinv.rcur_lt.trans_le hcap)

end Machine
end Sys2Proof
end

section
/-! PROOFS. Which outcomes a step has (`60_exceptions.md` R206; log entries 8, 10, 12): an operation has no refusal, so
that of the step is the one of the configuration, and with the invariant TRY_READ does not reach its bound. -/

namespace Sys2Proof.Machine

variable {s : State}

theorem step_of_not_wf (hwf : ¬ s.cfg.wf) : step s = .refused .invalidConfiguration := if_neg hwf

theorem exec_tryRead_of_fsmRun_none (hrun : fsmRun (fsmBound s) (s.setFsm .idle) = none) :
    exec .tryRead s = .fault .searchBoundExceeded := by
  simp only [exec, execTryRead, hrun]

/-- From every state, with the invariant or without, an operation goes on or is a TRY_READ at its bound. -/
theorem exec_next_or_fault (i : Instr) (s : State) :
    (∃ t, exec i s = .next t) ∨ exec i s = .fault .searchBoundExceeded := by
  by_cases hi : i = .tryRead
  · subst hi
    cases hrun : fsmRun (fsmBound s) (s.setFsm .idle) with
    | none => exact .inr (exec_tryRead_of_fsmRun_none hrun)
    | some x => exact .inl ⟨_, exec_tryRead_of_fsmRun hrun⟩
  · obtain ⟨f, -, hrun⟩ := exec_effect s hi
    exact .inl ⟨f s, hrun s.status s.latch s.fsm fun _ => rfl⟩

/-- A step of a valid configuration goes on by itself, or it is the operation that is offered. -/
theorem step_next_or_exec (hwf : s.cfg.wf) : (∃ t, step s = .next t) ∨ ∃ i, step s = exec i s.dropInput := by
  cases hinputs : s.inputs with
  | nil => exact .inl ⟨s, step_of_nextOffer_nothing hwf (State.nextOffer_of_inputs_nil hinputs)⟩
  | cons item rest =>
    cases item with
    | arrive bytes => exact .inl ⟨_, step_of_nextOffer_arrival hwf (State.nextOffer_of_inputs_arrive hinputs)⟩
    | command w din =>
      cases hdecode : decode w din with
      | error e =>
        exact .inl ⟨_, step_of_nextOffer_reserved hwf (State.nextOffer_of_decode_error hinputs hdecode)⟩
      | ok i => exact .inr ⟨i, step_of_nextOffer_operation hwf (State.nextOffer_of_decode_ok hinputs hdecode)⟩

theorem State.Inv.step_next (h : s.Inv) : ∃ t, step s = .next t := by
  obtain hnext | ⟨i, hexec⟩ := step_next_or_exec h.cfg_wf
  · exact hnext
  · rw [hexec]
    exact h.dropInput.ringInv.exec_completes i

theorem step_next_or_fault (hwf : s.cfg.wf) :
    (∃ t, step s = .next t) ∨ step s = .fault .searchBoundExceeded := by
  obtain hnext | ⟨i, hexec⟩ := step_next_or_exec hwf
  · exact .inl hnext
  · rw [hexec]
    exact exec_next_or_fault i s.dropInput

theorem step_ne_refused (hwf : s.cfg.wf) (r : Refusal) : step s ≠ .refused r := by
  obtain ⟨t, hnext⟩ | hfault := step_next_or_fault hwf
  · simp [hnext]
  · simp [hfault]

/-- Settles O49: the step is an operation that completes or goes on by itself, and only the test of the
configuration refuses. -/
theorem everyStepGoesOnUnlessTheConfigurationIsInvalid :
    Obligations.EveryStepGoesOnUnlessTheConfigurationIsInvalid :=
  fun _ => ⟨State.Inv.step_next, step_of_not_wf, step_ne_refused⟩

end Sys2Proof.Machine
end

section
/-! PROOFS. The block after construction (`70_reset_and_hazards.md` R231 to R233). -/

namespace Sys2Proof.Machine

variable {c : Config}

/-- With both cursors at 0 the unread region is empty (R231). -/
@[simp] theorem State.construct_unread (c : Config) (p : Nat) : (State.construct c p).unread = 0 :=
  ringCount_self c.capacity 0

/-- No byte of `buf` is written by construction (R233). -/
theorem State.construct_not_written (c : Config) (p i : Nat) : ¬ (State.construct c p).written i := by
  simp [State.written]

/-- An empty unread region holds no unwritten byte. -/
theorem State.UnreadWritten.of_unread_eq_zero {s : State} (h : s.unread = 0) : s.UnreadWritten :=
  fun k hk => absurd (h ▸ hk) k.not_lt_zero

theorem capacity_pos_of_wf (h : c.wf) : 0 < c.capacity := by
  obtain ⟨hmin, -⟩ := h
  omega

/-- Cursors and latch are 0, below the capacity of a valid configuration, and the list of written bytes is empty. -/
theorem State.construct_inv (h : c.wf) (p : Nat) : (State.construct c p).Inv where
  cfg_wf := h
  wcur_lt := capacity_pos_of_wf h
  rcur_lt := capacity_pos_of_wf h
  buf_wf := construct_buf_wf c p
  buf_lt _ hmem := absurd hmem List.not_mem_nil
  fsm_idle := rfl
  avail_lt := capacity_pos_of_wf h
  body_le := Nat.zero_le _

/-- Settles O1: construction sets the registers, equal cursors leave nothing unread, and each flag is a bit of
STATUS. -/
theorem constructionLeavesTheBlockEmpty : Obligations.ConstructionLeavesTheBlockEmpty := by
  refine fun c p => ⟨rfl, rfl, State.construct_unread c p, ?ovr, ?rej, ?rsy, rfl⟩
  case ovr => exact BitVec.getLsbD_zero
  case rej => exact BitVec.getLsbD_zero
  case rsy => exact BitVec.getLsbD_zero

/-- Settles O2: I-unread holds because nothing is unread, and `State.reset` is a construction with the valid
configuration `Config.tv`. -/
theorem constructionMeetsTheInvariant : Obligations.ConstructionMeetsTheInvariant := by
  refine ⟨fun c p hwf => ⟨State.construct_inv hwf p, ?unread, State.construct_not_written c p⟩, ?reset⟩
  case unread => exact .of_unread_eq_zero (State.construct_unread c p)
  case reset => exact State.construct_inv (by decide) 0

end Sys2Proof.Machine
end
